-- ==== Sys2Proof/Word.lean ====
section
/-! DEFINITION. The word types of the block: one per format of 30_encoding.md R80. -/

namespace Sys2Proof

/-- A byte is 8 bits (R8). -/
abbrev Byte := BitVec 8

/-- A device address, carried as 64 bits (R90). -/
abbrev Addr := BitVec 64

/-- A command word, host to engine (R81). -/
abbrev CmdWord := BitVec 72

/-- A response word, engine to host (R84). -/
abbrev RspWord := BitVec 28

/-- A transport request, engine to transport (R87). -/
abbrev TreqWord := BitVec 67

/-- One beat of a transport answer, transport to engine (R88). -/
abbrev TansWord := BitVec 66

end Sys2Proof
end

