-- ==== Sys2Proof/Config.lean ====
section
/-! DEFINITION. What is fixed for one block: the constants of 00_scope.md R6, the parameters R7
leaves open, and the free values (93_implementation_defined.md U4, U6). -/

namespace Sys2Proof

/-- The parameters the spec leaves open: "The model takes each as an argument; no rule of the spec
depends on a particular value" (R7). -/
structure Config where
  /-- `MAX_DEV`: the capacity of the discovered-device list, `none` when unbounded. -/
  maxDev : Option Nat
  /-- `F_CLK_HZ`: the clock frequency, used only to turn 750 ms into ticks. -/
  fClkHz : Nat
  deriving DecidableEq, Repr, Inhabited

/-- The ranges of R7: `MAX_DEV` is "at least 1, or unbounded", `F_CLK_HZ` is positive. -/
def Config.wf (c : Config) : Bool :=
  (match c.maxDev with
    | none => true
    | some m => decide (1 ≤ m)) && decide (1 ≤ c.fClkHz)

/-- `MAX_DEV - 1` of the block at hand, `none` when unbounded; uninterpreted (log 4). -/
opaque Config.maxDevLessOne : Option Nat

/-- `F_CLK_HZ - 1` of the block at hand; uninterpreted (log 4). -/
opaque Config.fClkHzLessOne : Nat

/-- The parameters of the block at hand: any that R7 allows. -/
def Config.ofBlock : Config :=
  { maxDev := Config.maxDevLessOne.map (· + 1), fClkHz := Config.fClkHzLessOne + 1 }

/-- The `data` field of the `k`-th `INVALID` response: "unspecified: any 16 bits" (R86, U4; log 6). -/
opaque Config.freeData : Nat → BitVec 16

/-- What list entry `i` holds at the `k`-th look at it when it is not part of the list: "any value
(a draw per read)" (R25, R36, U6; log 7). -/
opaque Config.freeEntry : Nat → Nat → Addr

/-- `CRC_POLY_REFLECTED` (R6). -/
def Config.crcPolyReflected : Byte := 0x8C#8

/-- `CRC_POLY_NORMAL` (R6): the same polynomial in the non-reflected convention. -/
def Config.crcPolyNormal : Byte := 0x31#8

/-- `CRC_INIT` (R6). -/
def Config.crcInit : Byte := 0x00#8

/-- `CMD_CONVERT_T` (R6, R89). -/
def Config.cmdConvertT : Byte := 0x44#8

/-- `CMD_READ_SCRATCHPAD` (R6, R89). -/
def Config.cmdReadScratchpad : Byte := 0xBE#8

/-- `T_CONV_MS` (R6). -/
def Config.tConvMs : Nat := 750

/-- `TEMP_DIVISOR` (R6): raw units per degree Celsius. -/
def Config.tempDivisor : Nat := 16

end Sys2Proof
end

