-- ==== Sys2Proof/Syntax.lean ====
section
/-! DEFINITION. Every row of the opcode table as one constructor of `Instr`, the word formats, the
transport requests, the response as the host reads it, and the assembly lines. -/

namespace Sys2Proof

/-- The message formats of R80. -/
inductive Format
  | cmd
  | treq
  | tans
  | rsp
  | buscmd
  deriving DecidableEq, Repr

/-- The length of a format's words in bits (R80). -/
def Format.bits : Format → Nat
  | .cmd => 72
  | .treq => 67
  | .tans => 66
  | .rsp => 28
  | .buscmd => 8

/-- One row of the opcode table each. An operand the operation ignores is kept, because `ARG`
latches it (R28, R83). -/
inductive Instr
  /-- `SCAN` (R131); its 64 operand bits are ignored. -/
  | scan (arg : BitVec 64)
  /-- `CONVERT` (R133); its 64 operand bits are ignored. -/
  | convert (arg : BitVec 64)
  /-- `WAIT` (R135); its 64 operand bits are ignored. -/
  | wait (arg : BitVec 64)
  /-- `READ a` (R136). -/
  | read (a : Addr)
  /-- `CRCCLR` (R113); its 64 operand bits are ignored. -/
  | crcclr (arg : BitVec 64)
  /-- `CRCBYTE b` (R114); the upper 56 operand bits are ignored. -/
  | crcbyte (hi : BitVec 56) (b : Byte)
  /-- `T_RESET()` (R53). -/
  | tReset
  /-- `T_SELECT(a)` (R54). -/
  | tSelect (a : Addr)
  /-- `T_WRITE(v)` (R55). -/
  | tWrite (v : Byte)
  /-- `T_READ()` (R56). -/
  | tRead
  /-- `T_SCAN()` (R57). -/
  | tScan
  /-- The bus command byte 0x44 (R89). -/
  | cmdConvertT
  /-- The bus command byte 0xBE (R89). -/
  | cmdReadScratchpad
  /-- The response `OK` (R161). -/
  | rspOk (info : Byte) (data : BitVec 16)
  /-- The response `INVALID` (R162). -/
  | rspInvalid (info : Byte) (data : BitVec 16)
  /-- The response `TRANSPORT_FAIL` (R163). -/
  | rspTransportFail (info : Byte) (data : BitVec 16)
  /-- The response `ILLEGAL_OP` (R164). -/
  | rspIllegalOp (info : Byte) (data : BitVec 16)
  /-- The response `LIST_OVERFLOW` (R165). -/
  | rspListOverflow (info : Byte) (data : BitVec 16)
  /-- An answer's last beat: the request is done (R88). -/
  | tansDone (t : BitVec 64)
  /-- An answer's last beat: the request failed (R88). -/
  | tansFail (t : BitVec 64)
  /-- One device address of a scan's answer (R88). -/
  | tansItem (a : Addr)
  deriving DecidableEq, Repr

/-- The format a row's word has. -/
def Instr.format : Instr → Format
  | .scan _ | .convert _ | .wait _ | .read _ | .crcclr _ | .crcbyte _ _ => .cmd
  | .tReset | .tSelect _ | .tWrite _ | .tRead | .tScan => .treq
  | .cmdConvertT | .cmdReadScratchpad => .buscmd
  | .rspOk _ _ | .rspInvalid _ _ | .rspTransportFail _ _ | .rspIllegalOp _ _
  | .rspListOverflow _ _ => .rsp
  | .tansDone _ | .tansFail _ | .tansItem _ => .tans

/-- The five outcomes of R160. -/
inductive Status
  | ok
  | invalid
  | transportFail
  | illegalOp
  | listOverflow
  deriving DecidableEq, Repr

/-- A request on the transport port, with its argument (R51 to R57). -/
inductive Request
  | reset
  | select (a : Addr)
  | write (v : Byte)
  | read
  | scan
  deriving DecidableEq, Repr

/-- A response as the host reads it: "a sum type whose `INVALID` case has no temperature payload"
(R86). -/
inductive Response
  | ok (data : BitVec 16)
  | invalid
  | transportFail (code : Byte)
  | illegalOp
  | listOverflow
  deriving DecidableEq, Repr

/-- A line of the assembly notation, pseudo-operations included (R97, R98). -/
inductive AsmLine
  | scan
  | convert
  | wait
  | read (a : Addr)
  | crcclr
  | crcbyte (b : Byte)
  | crc8 (bs : List Byte)
  | measure (a : Addr)
  deriving DecidableEq, Repr

end Sys2Proof
end

