-- ==== Sys2Proof/WellFormed.lean ====
section
/-! DEFINITION. Which words of each format the block or its environment may put on a channel: the
limits 30_encoding.md sets beyond the code of a row. -/

namespace Sys2Proof

/-- The engine calls `T_WRITE` "with exactly two values" (R55, R89). -/
def busByteAllowed (v : Byte) : Bool :=
  v == Config.cmdConvertT || v == Config.cmdReadScratchpad

/-- `info` is "the transport's failure code when `status = TRANSPORT_FAIL`; 0 otherwise" (R84);
`data` is 0 for the three failure rows of R86 that name 0. -/
def Instr.wellFormed : Instr → Bool
  | .scan _ | .convert _ | .wait _ | .read _ | .crcclr _ | .crcbyte _ _ => true
  | .tReset | .tSelect _ | .tRead | .tScan => true
  | .tWrite v => busByteAllowed v
  | .cmdConvertT | .cmdReadScratchpad => true
  | .rspOk info _ | .rspInvalid info _ => info == 0#8
  | .rspTransportFail _ data => data == 0#16
  | .rspIllegalOp info data | .rspListOverflow info data => info == 0#8 && data == 0#16
  | .tansDone _ | .tansFail _ | .tansItem _ => true

end Sys2Proof
end

