-- ==== Sys2Proof/Decode.lean ====
section
/-! DEFINITION. Decoding, total on every word of every format and rejecting by name, then the
encoder, the opcode table's rows, and the assembler. -/

namespace Sys2Proof

/-- Why a word of a format is no row of the opcode table. -/
inductive DecodeError
  /-- A `CMD` whose `op` is reserved (R93). -/
  | reservedOp (op : Byte)
  /-- A `TREQ` whose `prim` is 5 to 7 (R87). -/
  | reservedPrim (prim : BitVec 3)
  /-- A `TREQ` with a bit set that R87 says is zero. -/
  | reservedTarg (targ : BitVec 64)
  /-- A `TANS` beat whose `kind` is 3 (R88). -/
  | reservedKind
  /-- An `RSP` whose `status` is 5 to 15 (R85). -/
  | reservedStatus (status : BitVec 4)
  /-- A bus byte that is neither 0x44 nor 0xBE (R89, R93). -/
  | reservedBusByte (v : Byte)
  deriving DecidableEq, Repr

/-- `CMD[71:64]` (R81). -/
def cmdOp (w : CmdWord) : Byte := w.extractLsb' 64 8

/-- `CMD[63:0]` (R81). -/
def cmdArg (w : CmdWord) : BitVec 64 := w.extractLsb' 0 64

/-- The operation codes of R82. `op` alone selects the operation (R96). -/
def decodeCmd (w : CmdWord) : Except DecodeError Instr :=
  if cmdOp w = 0x01#8 then .ok (.scan (cmdArg w))
  else if cmdOp w = 0x02#8 then .ok (.convert (cmdArg w))
  else if cmdOp w = 0x03#8 then .ok (.wait (cmdArg w))
  else if cmdOp w = 0x04#8 then .ok (.read (cmdArg w))
  else if cmdOp w = 0x08#8 then .ok (.crcclr (cmdArg w))
  else if cmdOp w = 0x09#8 then .ok (.crcbyte (w.extractLsb' 8 56) (w.extractLsb' 0 8))
  else .error (.reservedOp (cmdOp w))

/-- `TREQ[66:64]` (R87). -/
def treqPrim (w : TreqWord) : BitVec 3 := w.extractLsb' 64 3

/-- `TREQ[63:0]` (R87). -/
def treqTarg (w : TreqWord) : BitVec 64 := w.extractLsb' 0 64

/-- The primitive codes of R87; the bits R87 says are zero must be zero. -/
def decodeTreq (w : TreqWord) : Except DecodeError Instr :=
  if treqPrim w = 0#3 then
    (if treqTarg w = 0#64 then .ok .tReset else .error (.reservedTarg (treqTarg w)))
  else if treqPrim w = 1#3 then .ok (.tSelect (treqTarg w))
  else if treqPrim w = 2#3 then
    (if w.extractLsb' 8 56 = 0#56 then .ok (.tWrite (w.extractLsb' 0 8))
     else .error (.reservedTarg (treqTarg w)))
  else if treqPrim w = 3#3 then
    (if treqTarg w = 0#64 then .ok .tRead else .error (.reservedTarg (treqTarg w)))
  else if treqPrim w = 4#3 then
    (if treqTarg w = 0#64 then .ok .tScan else .error (.reservedTarg (treqTarg w)))
  else .error (.reservedPrim (treqPrim w))

/-- `TANS[65:64]` (R88). -/
def tansKind (w : TansWord) : BitVec 2 := w.extractLsb' 64 2

/-- `TANS[63:0]` (R88). -/
def tansData (w : TansWord) : BitVec 64 := w.extractLsb' 0 64

/-- The answer kinds of R88. -/
def decodeTans (w : TansWord) : Except DecodeError Instr :=
  if tansKind w = 0#2 then .ok (.tansDone (tansData w))
  else if tansKind w = 1#2 then .ok (.tansFail (tansData w))
  else if tansKind w = 2#2 then .ok (.tansItem (tansData w))
  else .error .reservedKind

/-- `RSP[27:24]` (R84). -/
def rspStatus (w : RspWord) : BitVec 4 := w.extractLsb' 24 4

/-- `RSP[23:16]` (R84). -/
def rspInfo (w : RspWord) : Byte := w.extractLsb' 16 8

/-- `RSP[15:0]` (R84). -/
def rspData (w : RspWord) : BitVec 16 := w.extractLsb' 0 16

/-- The status codes of R85. -/
def Status.code : Status → BitVec 4
  | .ok => 0#4
  | .invalid => 1#4
  | .transportFail => 2#4
  | .illegalOp => 3#4
  | .listOverflow => 4#4

/-- The response word with these fields (R84). -/
def rspWord (status : Status) (info : Byte) (data : BitVec 16) : RspWord :=
  status.code ++ info ++ data

/-- The status codes of R85. -/
def decodeRsp (w : RspWord) : Except DecodeError Instr :=
  if rspStatus w = 0#4 then .ok (.rspOk (rspInfo w) (rspData w))
  else if rspStatus w = 1#4 then .ok (.rspInvalid (rspInfo w) (rspData w))
  else if rspStatus w = 2#4 then .ok (.rspTransportFail (rspInfo w) (rspData w))
  else if rspStatus w = 3#4 then .ok (.rspIllegalOp (rspInfo w) (rspData w))
  else if rspStatus w = 4#4 then .ok (.rspListOverflow (rspInfo w) (rspData w))
  else .error (.reservedStatus (rspStatus w))

/-- The two bus command bytes of R89. -/
def decodeBuscmd (v : Byte) : Except DecodeError Instr :=
  if v = 0x44#8 then .ok .cmdConvertT
  else if v = 0xBE#8 then .ok .cmdReadScratchpad
  else .error (.reservedBusByte v)

/-- The row a word of a format stands for. -/
def decode : (f : Format) → BitVec f.bits → Except DecodeError Instr
  | .cmd, w => decodeCmd w
  | .treq, w => decodeTreq w
  | .tans, w => decodeTans w
  | .rsp, w => decodeRsp w
  | .buscmd, w => decodeBuscmd w

/-- The command word `{op, arg}` (R81). -/
def cmdWord (op : Byte) (arg : BitVec 64) : CmdWord := op ++ arg

/-- The request word `{prim, targ}` (R87). -/
def treqWord (prim : BitVec 3) (targ : BitVec 64) : TreqWord := prim ++ targ

/-- The answer beat `{kind, tdata}` (R88). -/
def tansWord (kind : BitVec 2) (tdata : BitVec 64) : TansWord := kind ++ tdata

/-- A `DONE` beat (R88). -/
def doneBeat (t : BitVec 64) : TansWord := tansWord 0#2 t

/-- A `FAIL` beat (R88). -/
def failBeat (t : BitVec 64) : TansWord := tansWord 1#2 t

/-- An `ITEM` beat (R88). -/
def itemBeat (a : Addr) : TansWord := tansWord 2#2 a

/-- The word of an instruction, from the tables of 30_encoding.md. -/
def encode : (i : Instr) → BitVec i.format.bits
  | .scan arg => cmdWord 0x01#8 arg
  | .convert arg => cmdWord 0x02#8 arg
  | .wait arg => cmdWord 0x03#8 arg
  | .read a => cmdWord 0x04#8 a
  | .crcclr arg => cmdWord 0x08#8 arg
  | .crcbyte hi b => cmdWord 0x09#8 (hi ++ b)
  | .tReset => treqWord 0#3 0#64
  | .tSelect a => treqWord 1#3 a
  | .tWrite v => treqWord 2#3 (0#56 ++ v)
  | .tRead => treqWord 3#3 0#64
  | .tScan => treqWord 4#3 0#64
  | .cmdConvertT => Config.cmdConvertT
  | .cmdReadScratchpad => Config.cmdReadScratchpad
  | .rspOk info data => rspWord .ok info data
  | .rspInvalid info data => rspWord .invalid info data
  | .rspTransportFail info data => rspWord .transportFail info data
  | .rspIllegalOp info data => rspWord .illegalOp info data
  | .rspListOverflow info data => rspWord .listOverflow info data
  | .tansDone t => doneBeat t
  | .tansFail t => failBeat t
  | .tansItem a => itemBeat a

/-- The `TREQ` word of a request (R87). -/
def Request.word : Request → TreqWord
  | .reset => treqWord 0#3 0#64
  | .select a => treqWord 1#3 a
  | .write v => treqWord 2#3 (0#56 ++ v)
  | .read => treqWord 3#3 0#64
  | .scan => treqWord 4#3 0#64

/-- A row's code in the opcode table: a word `w` is of the row when `w &&& mask = code`. -/
structure TableRow where
  format : Format
  mask : Nat
  code : Nat
  deriving DecidableEq, Repr

/-- The opcode table's `format`, `mask` and `match` of an instruction's row. -/
def Instr.tableRow : Instr → TableRow
  | .scan _ => ⟨.cmd, 0xFF0000000000000000, 0x010000000000000000⟩
  | .convert _ => ⟨.cmd, 0xFF0000000000000000, 0x020000000000000000⟩
  | .wait _ => ⟨.cmd, 0xFF0000000000000000, 0x030000000000000000⟩
  | .read _ => ⟨.cmd, 0xFF0000000000000000, 0x040000000000000000⟩
  | .crcclr _ => ⟨.cmd, 0xFF0000000000000000, 0x080000000000000000⟩
  | .crcbyte _ _ => ⟨.cmd, 0xFF0000000000000000, 0x090000000000000000⟩
  | .tReset => ⟨.treq, 0x70000000000000000, 0x00000000000000000⟩
  | .tSelect _ => ⟨.treq, 0x70000000000000000, 0x10000000000000000⟩
  | .tWrite _ => ⟨.treq, 0x70000000000000000, 0x20000000000000000⟩
  | .tRead => ⟨.treq, 0x70000000000000000, 0x30000000000000000⟩
  | .tScan => ⟨.treq, 0x70000000000000000, 0x40000000000000000⟩
  | .cmdConvertT => ⟨.buscmd, 0xFF, 0x44⟩
  | .cmdReadScratchpad => ⟨.buscmd, 0xFF, 0xBE⟩
  | .rspOk _ _ => ⟨.rsp, 0xF000000, 0x0000000⟩
  | .rspInvalid _ _ => ⟨.rsp, 0xF000000, 0x1000000⟩
  | .rspTransportFail _ _ => ⟨.rsp, 0xF000000, 0x2000000⟩
  | .rspIllegalOp _ _ => ⟨.rsp, 0xF000000, 0x3000000⟩
  | .rspListOverflow _ _ => ⟨.rsp, 0xF000000, 0x4000000⟩
  | .tansDone _ => ⟨.tans, 0x30000000000000000, 0x00000000000000000⟩
  | .tansFail _ => ⟨.tans, 0x30000000000000000, 0x10000000000000000⟩
  | .tansItem _ => ⟨.tans, 0x30000000000000000, 0x20000000000000000⟩

/-- The format whose words have this many bits, or this many once rounded up to whole bytes. Three
formats round up to 72 bits, and 72 bits are read as the format that has 72: `CMD` (log 11). -/
def formatOfBits (nbits : Nat) : Option Format :=
  if nbits = 72 then some .cmd
  else if nbits = 67 then some .treq
  else if nbits = 66 then some .tans
  else if nbits = 28 ∨ nbits = 32 then some .rsp
  else if nbits = 8 then some .buscmd
  else none

/-- What the decoder reads from a word of the opcode table of this many bits (log 11). -/
def decodeTableWord (nbits w : Nat) : Option Instr :=
  match formatOfBits nbits with
  | none => none
  | some f =>
    if w < 2 ^ f.bits then
      match decode f (BitVec.ofNat f.bits w) with
      | .ok i => some i
      | .error _ => none
    else none

/-- The operations a line of assembly stands for: itself, or the expansion of a pseudo-operation
(R97, R98); operand bits an operation does not use are 0 (R83). -/
def AsmLine.instrs : AsmLine → List Instr
  | .scan => [.scan 0#64]
  | .convert => [.convert 0#64]
  | .wait => [.wait 0#64]
  | .read a => [.read a]
  | .crcclr => [.crcclr 0#64]
  | .crcbyte b => [.crcbyte 0#56 b]
  | .crc8 bs => .crcclr 0#64 :: bs.map (fun b => .crcbyte 0#56 b)
  | .measure a => [.convert 0#64, .wait 0#64, .read a]

/-- The command word of an instruction of format `CMD`, if it is one. -/
def Instr.cmdWord? : Instr → Option CmdWord
  | .scan arg => some (cmdWord 0x01#8 arg)
  | .convert arg => some (cmdWord 0x02#8 arg)
  | .wait arg => some (cmdWord 0x03#8 arg)
  | .read a => some (cmdWord 0x04#8 a)
  | .crcclr arg => some (cmdWord 0x08#8 arg)
  | .crcbyte hi b => some (cmdWord 0x09#8 (hi ++ b))
  | .tReset | .tSelect _ | .tWrite _ | .tRead | .tScan => none
  | .cmdConvertT | .cmdReadScratchpad => none
  | .rspOk _ _ | .rspInvalid _ _ | .rspTransportFail _ _ | .rspIllegalOp _ _
  | .rspListOverflow _ _ => none
  | .tansDone _ | .tansFail _ | .tansItem _ => none

/-- The command words of a host program, in the order the host presents them (R97, R98). -/
def assemble (program : List AsmLine) : List CmdWord :=
  program.flatMap fun line => line.instrs.filterMap Instr.cmdWord?

end Sys2Proof
end

