-- ==== Sys2Proof/Machine/State.lean ====
section
/-! DEFINITION. The state of the block (10_state.md R20), what stands on its channels, the reasons
a step can stop, and the state after reset (R42). -/

namespace Sys2Proof.Machine

/-- The 14 values of the sequencer (R27). -/
inductive Seq
  | sIdle
  | sScan
  | sConvReset
  | sConvSelect
  | sConvWrite
  | sWait
  | sRdReset
  | sRdSelect
  | sRdWrite
  | sRdBytes
  | sRdCrc
  | sRdCheck
  | sCrcRun
  | sRespond
  deriving DecidableEq, Repr

/-- The transport port: "no request outstanding" (R42), or the one request outstanding (R52) with
the `ITEM` beats of its answer that have arrived (R88). -/
inductive Port
  | free
  | waiting (r : Request) (items : List Addr)
  deriving DecidableEq, Repr

/-- What an observer sees on the transport port, one event each (R71 (a)). -/
inductive PortEvent
  /-- The engine issued a request. -/
  | req (r : Request)
  /-- The transport sent an answer beat. -/
  | ans (w : TansWord)
  /-- The transport sent a beat of its answer to an abandoned request (R192). -/
  | late (w : TansWord)
  deriving DecidableEq, Repr

/-- A request that a reset has abandoned, and the beats of its answer that are yet to come: "its answer,
if it comes, is ignored" (R192). -/
structure Abandoned where
  request : Request
  beats : List TansWord
  deriving DecidableEq, Repr

/-- No step faults: "no other outcome, no fatal abort, no logging, no retry exists inside the block"
(R160), and every outcome is a next state. -/
inductive Fault
  deriving DecidableEq, Repr

/-- Why a step has no meaning. All but the first are breaches of the answer protocol by the
transport, for which R94 says "a model should treat it as a refusal" (U9); each is safe. -/
inductive Refusal
  /-- An instruction that has no meaning yet. Raised by `exec` only; safe. -/
  | notModelled (mnemonic : String)
  /-- A beat whose `kind` is 3 (R88, R94). Raised by the fetch of a beat, late ones too; safe. -/
  | reservedBeatKind
  /-- An `ITEM` beat in the answer to a request other than `T_SCAN` (R88, R94). Raised by
  `execTansItem` and by the fetch of a late beat; safe. -/
  | itemOutsideScan
  /-- A beat that answers no request of the engine (R52, R88, R94, U9 "two final beats"): no request is
  outstanding, or its answer has had its last beat, or `SEQ` is in no state that issues one. Raised by the
  meanings of the three beats and by the fetch of a late beat; safe. -/
  | strayBeat
  deriving DecidableEq, Repr

/-- The block and its channels. The first group is the state of R20 (`DEVCNT` is the length of
`devlist`, R25; log 8); the others are what the host and the transport hold at the block's edges
(R30, R52, R71, R81, R132, R190; log 2), the count of free values drawn, and the parameters (R7). -/
structure State where
  /-- `ACC` (R21). -/
  acc : Byte
  /-- `BITCNT` (R22). -/
  bitcnt : BitVec 4
  /-- `SP[0]` to `SP[8]` (R23). -/
  sp : Vector Byte 9
  /-- `BYTECNT` (R24). -/
  bytecnt : BitVec 4
  /-- `DEVLIST[0 .. DEVCNT-1]` (R25). -/
  devlist : List Addr
  /-- `DEVIDX` (R26). -/
  devidx : Nat
  /-- `SEQ` (R27). -/
  seq : Seq
  /-- `OP` (R28). -/
  op : Byte
  /-- `ARG` (R28). -/
  arg : BitVec 64
  /-- `WAITCNT` (R29). -/
  waitcnt : Nat
  /-- `RSP_VALID` (R31). -/
  rspValid : Bool
  /-- `RSP` (R31, R84). -/
  rsp : RspWord
  /-- The transport port (R42, R52). -/
  port : Port
  /-- The words the host has yet to have accepted; the first is the one it presents (R81, R130). -/
  cmds : List CmdWord
  /-- The beats on the transport port that are yet to be taken, oldest first (R88). While a request is
  outstanding they are its answer; while none is, they answer nothing. -/
  tans : List TansWord
  /-- For each request that is yet to be issued, in order, the beats the transport sends when it is. -/
  answers : List (List TansWord)
  /-- The requests abandoned by a reset whose answers have not ended, oldest first (R192; log 13). -/
  abandoned : List Abandoned
  /-- The host is ready to take a response (R132). -/
  rspReady : Bool
  /-- The reset input (R190). -/
  rst : Bool
  /-- Everything seen on the transport port, oldest first (R71 (a)). -/
  trace : List PortEvent
  /-- Every response word the host has taken, oldest first (R71 (b)). -/
  delivered : List RspWord
  /-- How many free values have been drawn (log 6). -/
  draws : Nat
  /-- The parameters R7 leaves open (log 4). -/
  cfg : Config
  deriving DecidableEq, Repr

/-- `DEVCNT`, the number of entries of the list (R25). -/
abbrev State.devcnt (s : State) : Nat := s.devlist.length

/-- `SP` after reset: R42 leaves it unspecified; DESIGN CHOICE nine zero bytes (log 5). -/
def spAtReset : Vector Byte 9 := Vector.replicate 9 0#8

/-- The block right after reset (R42, R190), with nothing presented on its channels (log 2). -/
def State.reset : State where
  acc := 0x00#8
  bitcnt := 0#4
  sp := spAtReset
  bytecnt := 0#4
  devlist := []
  devidx := 0
  seq := .sIdle
  op := 0#8
  arg := 0#64
  waitcnt := 0
  rspValid := false
  rsp := 0#28
  port := .free
  cmds := []
  tans := []
  answers := []
  abandoned := []
  rspReady := true
  rst := false
  trace := []
  delivered := []
  draws := 0
  cfg := Config.ofBlock

end Sys2Proof.Machine
end

