-- ==== Sys2Proof/Machine/Crc8.lean ====
section
/-! DEFINITION. The CRC-8 function and its forms (40_crc8.md). -/

namespace Sys2Proof.Machine

/-- One bit iteration: the test is on the low bit before the shift (R110). -/
def crcBit (acc : Byte) : Byte :=
  if acc.getLsbD 0 then (acc >>> 1) ^^^ Config.crcPolyReflected else acc >>> 1

/-- `n` bit iterations. -/
def crcBits : Nat → Byte → Byte
  | 0, acc => acc
  | n + 1, acc => crcBits n (crcBit acc)

/-- One byte: XOR it in, then 8 iterations (R110). -/
def crcByte (acc b : Byte) : Byte := crcBits 8 (acc ^^^ b)

/-- The CRC-8 of a byte sequence of any length (R110). -/
def crc8 (bytes : List Byte) : Byte := bytes.foldl crcByte Config.crcInit

/-- The serial-input form takes one bit of the byte per iteration, bit 0 first (R116). -/
def crcSerialBit (acc : Byte) (b : Bool) : Byte :=
  if xor (acc.getLsbD 0) b then (acc >>> 1) ^^^ Config.crcPolyReflected else acc >>> 1

/-- One byte in the serial-input form (R116). -/
def crcByteSerial (acc b : Byte) : Byte :=
  (List.range 8).foldl (fun a i => crcSerialBit a (b.getLsbD i)) acc

/-- `SP[0:8]`, the bytes the CRC covers (R91, R120). -/
def crcCovered (sp : Vector Byte 9) : List Byte := sp.toList.take 8

end Sys2Proof.Machine
end

