-- ==== Sys2Proof/Machine/Operands.lean ====
section
/-! DEFINITION. Operand assembly: the temperature, device addresses, list entries, the parameters
derived from the configuration, and the response as the host reads it. -/

namespace Sys2Proof.Machine

/-- `T_RAW = {SP[1], SP[0]}`, little-endian (R60, R92). -/
def tRaw (sp : Vector Byte 9) : BitVec 16 := sp[1] ++ sp[0]

/-- `sint16`: the integer 16 bits spell in two's complement (R8). -/
def sint16 (v : BitVec 16) : Int :=
  if v.getLsbD 15 then (v.toNat : Int) - 65536 else (v.toNat : Int)

/-- The temperature in degrees Celsius, an exact rational, never rounded (R92, R141). -/
def celsius (raw : BitVec 16) : Rat := (sint16 raw : Rat) / (Config.tempDivisor : Rat)

/-- Byte `k` of a device address is bits `8k+7:8k` (R61, R90). -/
def addrByte (a : Addr) (k : Nat) : Byte := a.extractLsb' (8 * k) 8

/-- The device address with these bytes, byte 0 in bits 7:0 (R61, R97). -/
def addrOfBytes (b : Vector Byte 8) : Addr :=
  b[7] ++ b[6] ++ b[5] ++ b[4] ++ b[3] ++ b[2] ++ b[1] ++ b[0]

/-- `WAIT_TICKS = ceil(F_CLK_HZ * 750 / 1000)` (R7). -/
def waitTicks (c : Config) : Nat := (c.fClkHz * Config.tConvMs + 999) / 1000

/-- A list of this length is no longer than `MAX_DEV` (R131, R165). -/
def fits (c : Config) (n : Nat) : Bool :=
  match c.maxDev with
  | none => true
  | some m => decide (n ≤ m)

/-- Index `i` is below `MAX_DEV` (R65). -/
def belowMaxDev (c : Config) (i : Nat) : Bool :=
  match c.maxDev with
  | none => true
  | some m => decide (i < m)

/-- `DEVLIST[i]`; an entry that is not part of the list has an unspecified value, here the `k`-th
one drawn (R25, U6; log 7). -/
def devEntry (s : State) (k i : Nat) : Addr :=
  match s.devlist[i]? with
  | some a => a
  | none => Config.freeEntry k i

/-- The byte a `T_READ` brings, or the code a `FAIL` brings: `tdata[7:0]` (R88). -/
def tdataByte (t : BitVec 64) : Byte := t.extractLsb' 0 8

/-- The input byte of `CRCBYTE`: `ARG[7:0]` (R95, R114). -/
def argByte (arg : BitVec 64) : Byte := arg.extractLsb' 0 8

/-- The response word as the host reads it; `none` for a status that is never produced (R85, R86). -/
def responseOf (w : RspWord) : Option Response :=
  match decodeRsp w with
  | .ok (.rspOk _ data) => some (.ok data)
  | .ok (.rspInvalid _ _) => some .invalid
  | .ok (.rspTransportFail info _) => some (.transportFail info)
  | .ok (.rspIllegalOp _ _) => some .illegalOp
  | .ok (.rspListOverflow _ _) => some .listOverflow
  | _ => none

/-- The temperature a response gives: only `OK` gives one (R140, R162). -/
def responseTemperature : Response → Option Rat
  | .ok data => some (celsius data)
  | .invalid => none
  | .transportFail _ => none
  | .illegalOp => none
  | .listOverflow => none

/-- The requests among the events of the port, in order (R66, R143). -/
def requestsOf (events : List PortEvent) : List Request :=
  events.filterMap fun e =>
    match e with
    | .req r => some r
    | .ans _ => none
    | .late _ => none

end Sys2Proof.Machine
end

