-- ==== Sys2Proof/Machine/Flags.lean ====
section
/-! DEFINITION. The block has no condition codes (R39). Its one-bit status values, and the read-only
registers the host sees through the window (10_state.md R30 to R37, 20_memory.md R65). -/

namespace Sys2Proof.Machine

/-- `BUSY` is 1 exactly when `SEQ` is not `S_IDLE` (R30). -/
def busy (s : State) : Bool := decide (s.seq ≠ .sIdle)

/-- Register `STATUS` (R33): bit 0 `BUSY`, bit 1 `RSP_VALID`, the rest 0. -/
def statusReg (s : State) : BitVec 64 :=
  0#62 ++ BitVec.ofBool s.rspValid ++ BitVec.ofBool (busy s)

/-- Register `DEVCNT` (R34). -/
def devcntReg (s : State) : BitVec 64 := BitVec.ofNat 64 s.devcnt

/-- Register `CRC` (R35). -/
def crcReg (s : State) : BitVec 64 := 0#56 ++ s.acc

/-- A host read of a window address, the `k`-th one (R33 to R37, R65). Addresses that are not listed
read 0. A read is no step: it gives a value and changes nothing (R37; log 18). -/
def windowRead (k : Nat) (s : State) (address : Nat) : BitVec 64 :=
  if address = 0x000 then statusReg s
  else if address = 0x001 then devcntReg s
  else if address = 0x002 then crcReg s
  else if 0x100 ≤ address ∧ belowMaxDev s.cfg (address - 0x100) = true then
    devEntry s k (address - 0x100)
  else 0#64

/-- A host write to a window address is ignored (R37). -/
def windowWrite (s : State) (_address : Nat) (_value : BitVec 64) : State := s

end Sys2Proof.Machine
end

