-- ==== Sys2Proof/Machine/Ops.lean ====
section
/-! DEFINITION. The named operations over the state that the meanings share: accepting a command,
raising and delivering an outcome, the transport port, reset. -/

namespace Sys2Proof.Machine

/-- `OP` and `ARG` latch the command word at the step that accepts it (R28). -/
def latch (op : Byte) (arg : BitVec 64) (s : State) : State := { s with op := op, arg := arg }

/-- The accepting step is enabled when `SEQ = S_IDLE`; otherwise the word "is held, neither dropped nor
answered with an error" (R130). What the accepted operation does is `f`. -/
def acceptCmd (op : Byte) (arg : BitVec 64) (f : State → State) (s : State) :
    Host.Outcome State Fault Refusal :=
  if s.seq = .sIdle then .next (f (latch op arg s)) else .next s

/-- `respond(status, info, data)` (R31). -/
def respond (status : Status) (info : Byte) (data : BitVec 16) (s : State) : State :=
  { s with rsp := rspWord status info data, rspValid := true, seq := .sRespond }

/-- `respond(INVALID, 0, <unspecified>)`: the data bits are a free value (R140, R86, U4; log 6). -/
def respondInvalid (s : State) : State :=
  { s with
    rsp := rspWord .invalid 0#8 (Config.freeData s.draws)
    rspValid := true
    seq := .sRespond
    draws := s.draws + 1 }

/-- Raising an outcome, the block's form of taking an exception: the abort rule. No further request
of the operation is issued, nothing is saved, the list and `ACC` keep their values (R10, R167). -/
def abortWith (status : Status) (info : Byte) (s : State) : State :=
  respond status info 0#16 { s with port := .free }

/-- The return: the host takes the word, and the block is idle (R132, R168). -/
def deliver (s : State) : State :=
  { s with delivered := s.delivered ++ [s.rsp], rspValid := false, seq := .sIdle }

/-- The delivery of word `w` is enabled when it is the word that waits and the host is ready;
otherwise the block stays as it is (R132). -/
def deliverWord (w : RspWord) (s : State) : Host.Outcome State Fault Refusal :=
  if s.seq = .sRespond ∧ s.rspReady = true ∧ s.rsp = w then .next (deliver s) else .next s

/-- A command with a reserved op: consumed, latched, answered `ILLEGAL_OP`, nothing else (R93, R164). -/
def acceptIllegal (w : CmdWord) (s : State) : State :=
  respond .illegalOp 0#8 0#16 (latch (cmdOp w) (cmdArg w) s)

/-- A request goes out, and the beats the transport sends in answer to it come to the port (R52, R59;
log 2). -/
def sendRequest (r : Request) (s : State) : State :=
  { s with
    port := .waiting r []
    trace := s.trace ++ [.req r]
    tans := s.tans ++ s.answers.headD []
    answers := s.answers.tail }

/-- The engine issues a request. It "never has two requests outstanding" (R52). -/
def issue (r : Request) (s : State) : Host.Outcome State Fault Refusal :=
  match s.port with
  | .free => .next (sendRequest r s)
  | .waiting _ _ => .next s

/-- An answer beat is seen on the port (R71). -/
def recordBeat (w : TansWord) (s : State) : State := { s with trace := s.trace ++ [.ans w] }

/-- The request is answered: none is outstanding (R52). -/
def closeRequest (s : State) : State := { s with port := .free }

/-- A beat of the answer to an abandoned request goes by: nothing changes but what is left to come of
it (R192). -/
def ignoreLate (w : TansWord) (rest : List Abandoned) (s : State) : State :=
  { s with abandoned := rest, trace := s.trace ++ [.late w] }

/-- A reset abandons the request that is outstanding: the beats that answer it are no longer the
engine's (R192). -/
def abandonRequest (s : State) : State :=
  match s.port with
  | .free => s
  | .waiting r _ => { s with tans := [], abandoned := s.abandoned ++ [⟨r, s.tans⟩] }

/-- The step while `rst` is asserted: every piece of state takes its reset value (R42, R190). An
outstanding request is abandoned, a waiting response is discarded (R192). What belongs to the host, the
transport and the observer stays. -/
def resetBlock (s : State) : State :=
  { State.reset with
    cmds := s.cmds
    tans := (abandonRequest s).tans
    answers := s.answers
    abandoned := (abandonRequest s).abandoned
    rspReady := s.rspReady
    rst := s.rst
    trace := s.trace
    delivered := s.delivered
    draws := s.draws
    cfg := s.cfg }

end Sys2Proof.Machine
end

