-- ==== Sys2Proof/Machine/Commands.lean ====
section
/-! DEFINITION. The six host operations (`CMD` rows): what the step that accepts each one does (R130),
and the engine's own steps that carry the operation on (40_crc8.md, 41_engine_ops.md). -/

namespace Sys2Proof.Machine

/-- `SCAN`: accepted, the transport is asked next (R130, R131). -/
def execScan (arg : BitVec 64) (s : State) : Host.Outcome State Fault Refusal :=
  acceptCmd 0x01#8 arg (fun t => { t with seq := .sScan }) s

/-- `CONVERT`: accepted, from the first list entry on (R130, R133). -/
def execConvert (arg : BitVec 64) (s : State) : Host.Outcome State Fault Refusal :=
  acceptCmd 0x02#8 arg (fun t => { t with devidx := 0, seq := .sConvReset }) s

/-- `WAIT`: accepted, the timer is loaded (R130, R135). -/
def execWait (arg : BitVec 64) (s : State) : Host.Outcome State Fault Refusal :=
  acceptCmd 0x03#8 arg (fun t => { t with waitcnt := waitTicks t.cfg, seq := .sWait }) s

/-- `READ a`: accepted (R130, R136). -/
def execRead (a : Addr) (s : State) : Host.Outcome State Fault Refusal :=
  acceptCmd 0x04#8 a (fun t => { t with bytecnt := 0#4, seq := .sRdReset }) s

/-- `CRCCLR`: accepted, done and answered in one step (R113, R130). -/
def execCrcclr (arg : BitVec 64) (s : State) : Host.Outcome State Fault Refusal :=
  acceptCmd 0x08#8 arg
    (fun t => respond .ok 0#8 0x0000#16 { t with acc := Config.crcInit, bitcnt := 0#4 }) s

/-- XOR a byte into the accumulator and load the bit counter (R112). -/
def loadCrcByte (b : Byte) (s : State) : State := { s with acc := s.acc ^^^ b, bitcnt := 8#4 }

/-- One bit iteration (R112). -/
def crcBitStep (s : State) : State := { s with acc := crcBit s.acc, bitcnt := s.bitcnt - 1#4 }

/-- `CRCBYTE b`: accepted with the load of `ARG[7:0]` in the same step (R112, R114; log 9). -/
def execCrcbyte (hi : BitVec 56) (b : Byte) (s : State) : Host.Outcome State Fault Refusal :=
  acceptCmd 0x09#8 (hi ++ b) (fun t => loadCrcByte (argByte t.arg) { t with seq := .sCrcRun }) s

/-- A step of `S_CRC_RUN`: a bit iteration while `BITCNT > 0`, then the answer (R114). -/
def crcRunStep (s : State) : State :=
  if s.bitcnt = 0#4 then respond .ok 0#8 (0#8 ++ s.acc) s else crcBitStep s

/-- `CONVERT` ends when `DEVIDX = DEVCNT` (R133). -/
def finishConvert (s : State) : State := respond .ok 0#8 0#16 s

/-- A tick of `S_WAIT` (R135). -/
def waitStep (s : State) : State :=
  if 0 < s.waitcnt then { s with waitcnt := s.waitcnt - 1 } else respond .ok 0#8 0#16 s

/-- All nine bytes are stored: the CRC phase begins (R138). -/
def startCrcPhase (s : State) : State :=
  { s with acc := Config.crcInit, bitcnt := 0#4, bytecnt := 0#4, seq := .sRdCrc }

/-- `SP[BYTECNT]` (R24). `BYTECNT` is below 8 where this is used (R139). -/
def spByte (s : State) : Byte := s.sp.toList.getD s.bytecnt.toNat 0#8

/-- A step of `S_RD_CRC`: a bit iteration, the load of the next byte, or the end (R139). -/
def rdCrcStep (s : State) : State :=
  if 0#4 < s.bitcnt then crcBitStep s
  else if s.bytecnt < 8#4 then
    { loadCrcByte (spByte s) s with bytecnt := s.bytecnt + 1#4 }
  else { s with seq := .sRdCheck }

/-- The response validator and the scratchpad parser (R140). -/
def rdCheckStep (s : State) : State :=
  if s.acc = s.sp[8] then respond .ok 0#8 (tRaw s.sp) s else respondInvalid s

/-- What the engine does next where `SEQ` is in a state of an operation in progress and no request is
outstanding: an instruction for the transport port, if the state calls for one (R27, R131, R133, R137,
R138). -/
def engineRequest (s : State) : Option Instr :=
  match s.seq with
  | .sScan => some .tScan
  | .sConvReset => if s.devidx = s.devcnt then none else some .tReset
  | .sConvSelect => some (.tSelect (devEntry s s.draws s.devidx))
  | .sConvWrite => some (.tWrite Config.cmdConvertT)
  | .sRdReset => some .tReset
  | .sRdSelect => some (.tSelect s.arg)
  | .sRdWrite => some (.tWrite Config.cmdReadScratchpad)
  | .sRdBytes => if s.bytecnt < 9#4 then some .tRead else none
  | .sIdle | .sWait | .sRdCrc | .sRdCheck | .sCrcRun | .sRespond => none

/-- The engine's own step where `engineRequest` asks for nothing (R27). -/
def internalStep (s : State) : State :=
  match s.seq with
  | .sConvReset => finishConvert s
  | .sWait => waitStep s
  | .sRdBytes => startCrcPhase s
  | .sRdCrc => rdCrcStep s
  | .sRdCheck => rdCheckStep s
  | .sCrcRun => crcRunStep s
  | .sIdle | .sScan | .sConvSelect | .sConvWrite | .sRdReset | .sRdSelect | .sRdWrite
  | .sRespond => s

end Sys2Proof.Machine
end

