-- ==== Sys2Proof/Machine/Transport.lean ====
section
/-! DEFINITION. The rows of the transport port: the five primitives (`TREQ`), the two bus command bytes
(`BUSCMD`) and the three kinds of answer beat (`TANS`), 20_memory.md R51 to R58, 30_encoding.md R87 to R89. -/

namespace Sys2Proof.Machine

/-- `T_RESET()` (R53). -/
def execTReset (s : State) : Host.Outcome State Fault Refusal := issue .reset s

/-- `T_SELECT(a)`: the 64 bits passed through unchanged (R54). -/
def execTSelect (a : Addr) (s : State) : Host.Outcome State Fault Refusal := issue (.select a) s

/-- `T_WRITE(v)` (R55). -/
def execTWrite (v : Byte) (s : State) : Host.Outcome State Fault Refusal := issue (.write v) s

/-- `T_READ()` (R56). -/
def execTRead (s : State) : Host.Outcome State Fault Refusal := issue .read s

/-- `T_SCAN()` (R57). -/
def execTScan (s : State) : Host.Outcome State Fault Refusal := issue .scan s

/-- `CMD_CONVERT_T`: 0x44, "as the argument of one `T_WRITE`" (R89). -/
def execCmdConvertT (s : State) : Host.Outcome State Fault Refusal :=
  issue (.write Config.cmdConvertT) s

/-- `CMD_READ_SCRATCHPAD`: 0xBE, "as the argument of one `T_WRITE`" (R89). -/
def execCmdReadScratchpad (s : State) : Host.Outcome State Fault Refusal :=
  issue (.write Config.cmdReadScratchpad) s

/-- `SCAN` has its answer: the list is replaced whole, or is too long (R131, R165). -/
def completeScan (items : List Addr) (s : State) : State :=
  if fits s.cfg items.length = true then
    respond .ok 0#8 (BitVec.ofNat 16 items.length) { s with devlist := items }
  else abortWith .listOverflow 0#8 s

/-- The byte a `T_READ` brought is stored in `SP[BYTECNT]` (R138). -/
def storeSp (b : Byte) (s : State) : State :=
  { s with sp := s.sp.setIfInBounds s.bytecnt.toNat b, bytecnt := s.bytecnt + 1#4 }

/-- The request is done: the operation goes on to its next step (R131, R133, R137, R138). `none` where
`SEQ` is in no state that issues a request. -/
def completeRequest (t : BitVec 64) (items : List Addr) (s : State) : Option State :=
  match s.seq with
  | .sScan => some (completeScan items s)
  | .sConvReset => some { s with seq := .sConvSelect }
  | .sConvSelect => some { s with seq := .sConvWrite }
  | .sConvWrite => some { s with devidx := s.devidx + 1, seq := .sConvReset }
  | .sRdReset => some { s with seq := .sRdSelect }
  | .sRdSelect => some { s with seq := .sRdWrite }
  | .sRdWrite => some { s with bytecnt := 0#4, seq := .sRdBytes }
  | .sRdBytes => some (storeSp (tdataByte t) s)
  | .sIdle | .sWait | .sRdCrc | .sRdCheck | .sCrcRun | .sRespond => none

/-- A `DONE` beat (R88). -/
def execTansDone (t : BitVec 64) (s : State) : Host.Outcome State Fault Refusal :=
  match s.port with
  | .free => .refused .strayBeat
  | .waiting _ items =>
    match completeRequest t items (closeRequest (recordBeat (doneBeat t) s)) with
    | some s' => .next s'
    | none => .refused .strayBeat

/-- `SEQ` is in a state that issues a request (R163). -/
def requestState : Seq → Bool
  | .sScan | .sConvReset | .sConvSelect | .sConvWrite
  | .sRdReset | .sRdSelect | .sRdWrite | .sRdBytes => true
  | .sIdle | .sWait | .sRdCrc | .sRdCheck | .sCrcRun | .sRespond => false

/-- A `FAIL` beat: the operation is aborted with the transport's code, bit for bit; items that arrived
before it are discarded (R58, R88, R163, R167). -/
def execTansFail (t : BitVec 64) (s : State) : Host.Outcome State Fault Refusal :=
  match s.port with
  | .free => .refused .strayBeat
  | .waiting _ _ =>
    if requestState s.seq = true then
      .next (abortWith .transportFail (tdataByte t) (recordBeat (failBeat t) s))
    else .refused .strayBeat

/-- An `ITEM` beat: one more address of the scan's answer, in arrival order; only `T_SCAN` is answered
with them (R88, R94). -/
def execTansItem (a : Addr) (s : State) : Host.Outcome State Fault Refusal :=
  match s.port with
  | .free => .refused .strayBeat
  | .waiting .scan items =>
    .next { recordBeat (itemBeat a) s with port := .waiting .scan (items ++ [a]) }
  | .waiting .reset _ => .refused .itemOutsideScan
  | .waiting (.select _) _ => .refused .itemOutsideScan
  | .waiting (.write _) _ => .refused .itemOutsideScan
  | .waiting .read _ => .refused .itemOutsideScan

end Sys2Proof.Machine
end

