-- ==== Sys2Proof/Machine/Responses.lean ====
section
/-! DEFINITION. The five response words (`RSP` rows): the host takes the word that waits (R132). What
raises each outcome is `respond`, `respondInvalid` and `abortWith` of Machine/Ops.lean. -/

namespace Sys2Proof.Machine

/-- `RSP.OK` (R161, R132). -/
def execRspOk (info : Byte) (data : BitVec 16) (s : State) : Host.Outcome State Fault Refusal :=
  deliverWord (rspWord .ok info data) s

/-- `RSP.INVALID` (R162, R132). -/
def execRspInvalid (info : Byte) (data : BitVec 16) (s : State) :
    Host.Outcome State Fault Refusal :=
  deliverWord (rspWord .invalid info data) s

/-- `RSP.TRANSPORT_FAIL` (R163, R132). -/
def execRspTransportFail (info : Byte) (data : BitVec 16) (s : State) :
    Host.Outcome State Fault Refusal :=
  deliverWord (rspWord .transportFail info data) s

/-- `RSP.ILLEGAL_OP` (R164, R132). -/
def execRspIllegalOp (info : Byte) (data : BitVec 16) (s : State) :
    Host.Outcome State Fault Refusal :=
  deliverWord (rspWord .illegalOp info data) s

/-- `RSP.LIST_OVERFLOW` (R165, R132). -/
def execRspListOverflow (info : Byte) (data : BitVec 16) (s : State) :
    Host.Outcome State Fault Refusal :=
  deliverWord (rspWord .listOverflow info data) s

end Sys2Proof.Machine
end

