-- ==== Sys2Proof/Machine/Fetch.lean ====
section
/-! DEFINITION. Which event comes next: the word that stands on the channel the block attends to, read
by the decoder, or a step of the engine's own (20_memory.md R52, R66, 41_engine_ops.md R130, R132). -/

namespace Sys2Proof.Machine

/-- What the next step is. -/
inductive Event
  /-- The meaning of an instruction, in the state its word has been taken from. -/
  | run (i : Instr) (s : State)
  /-- A step that no word names, with its result. -/
  | move (s : State)
  /-- Nothing is enabled: the block waits, without limit (R71, R172; log 3). -/
  | wait
  /-- The word on the channel is outside the contract (R94). -/
  | refuse (r : Refusal)
  deriving DecidableEq, Repr

/-- What the transport sends of the answers to abandoned requests (R192). -/
inductive Late
  /-- Nothing. -/
  | quiet
  /-- Beat `w`, which is ignored; `rest` is what is left of the abandoned requests. -/
  | ignore (w : TansWord) (rest : List Abandoned)
  /-- A beat that R88 does not allow in that answer (R94). -/
  | refuse (r : Refusal)
  deriving DecidableEq, Repr

/-- The same, with one more abandoned request before the others. -/
def Late.after (a : Abandoned) : Late → Late
  | .quiet => .quiet
  | .ignore w rest => .ignore w (a :: rest)
  | .refuse r => .refuse r

/-- The first beat `w` of what is left of the answer to an abandoned request: an `ITEM` of a scan leaves
the beats after it, a `DONE` or `FAIL` ends the answer (R88). -/
def lateBeat (r : Request) (w : TansWord) (ws : List TansWord) (rest : List Abandoned) : Late :=
  if tansKind w = 3#2 then .refuse .reservedBeatKind
  else if tansKind w = 2#2 then
    if r = .scan then .ignore w (⟨r, ws⟩ :: rest) else .refuse .itemOutsideScan
  else if ws = [] then .ignore w rest
  else .refuse .strayBeat

/-- The beat that comes next for an abandoned request, the oldest request first (R192). -/
def nextLate : List Abandoned → Late
  | [] => .quiet
  | ⟨r, []⟩ :: rest => (nextLate rest).after ⟨r, []⟩
  | ⟨r, w :: ws⟩ :: rest => lateBeat r w ws rest

/-- A beat on the port is taken (R88). With no request outstanding it answers nothing, and its meaning
refuses it (R94). -/
def nextBeat (w : TansWord) (rest : List TansWord) (s : State) : Event :=
  match decodeTans w with
  | .ok i => .run i { s with tans := rest }
  | .error _ => .refuse .reservedBeatKind

/-- The block is idle: the word the host presents is accepted (R130). -/
def nextCommand (s : State) : Event :=
  match s.cmds with
  | [] => .wait
  | w :: rest =>
    match decodeCmd w with
    | .ok i => .run i { s with cmds := rest }
    | .error _ => .move (acceptIllegal w { s with cmds := rest })

/-- A response waits: it is delivered once the host is ready (R132). The delivery reads no field of the
word, so one with a status that is never produced would be delivered too. -/
def nextResponse (s : State) : Event :=
  if s.rspReady = true then
    match decodeRsp s.rsp with
    | .ok i => .run i s
    | .error _ => .move (deliver s)
  else .wait

/-- An operation is in progress and no request is outstanding. -/
def nextEngine (s : State) : Event :=
  match engineRequest s with
  | some i => .run i s
  | none => .move (internalStep s)

/-- The next event where no beat stands on the port: a request that is outstanding is waited for (R52),
else `SEQ` says what comes (R27). -/
def nextOwn (s : State) : Event :=
  match s.port with
  | .waiting _ _ => .wait
  | .free =>
    match s.seq with
    | .sIdle => nextCommand s
    | .sRespond => nextResponse s
    | .sScan | .sConvReset | .sConvSelect | .sConvWrite | .sWait | .sRdReset | .sRdSelect
    | .sRdWrite | .sRdBytes | .sRdCrc | .sRdCheck | .sCrcRun => nextEngine s

/-- The next event: reset, then what the transport sends, then the block's own. -/
def nextEvent (s : State) : Event :=
  if s.rst = true then .move (resetBlock s)
  else
    match nextLate s.abandoned with
    | .ignore w rest => .move (ignoreLate w rest s)
    | .refuse r => .refuse r
    | .quiet =>
      match s.tans with
      | w :: rest => nextBeat w rest s
      | [] => nextOwn s

/-- The state in which the engine issues this request next (R27). It writes no bus byte but 0x44 and
0xBE (R93; log 20): of any other byte nothing is changed but the port. -/
def atRequest (i : Instr) (s : State) : State :=
  match i with
  | .tReset => { s with seq := .sRdReset }
  | .tSelect a => { s with seq := .sRdSelect, arg := a }
  | .tWrite v =>
    if v = Config.cmdReadScratchpad then { s with seq := .sRdWrite }
    else if v = Config.cmdConvertT then { s with seq := .sConvWrite }
    else s
  | .tRead => { s with seq := .sRdBytes, bytecnt := 0#4 }
  | .tScan => { s with seq := .sScan }
  | .cmdConvertT => { s with seq := .sConvWrite }
  | .cmdReadScratchpad => { s with seq := .sRdWrite }
  | .scan _ | .convert _ | .wait _ | .read _ | .crcclr _ | .crcbyte _ _ => s
  | .rspOk _ _ | .rspInvalid _ _ | .rspTransportFail _ _ | .rspIllegalOp _ _
  | .rspListOverflow _ _ => s
  | .tansDone _ | .tansFail _ | .tansItem _ => s

/-- The state in which this beat is the next to be taken, with a request outstanding that it may
answer: an `ITEM` answers `T_SCAN`, any other kind here answers `T_RESET` (R88). -/
def atBeat (w : TansWord) (s : State) : State :=
  if tansKind w = 2#2 then { s with port := .waiting .scan [], seq := .sScan, tans := [w] }
  else { s with port := .waiting .reset [], seq := .sRdReset, tans := [w] }

/-- The state in which a word of this format is the next event (log 10). A request or a bus byte is
one the engine makes itself, so `SEQ` selects it; the other words stand on their channel, and no beat
comes before them. -/
def placeWord (f : Format) (w : Nat) (s : State) : State :=
  let t := { s with rst := false, port := .free, tans := [], abandoned := [] }
  match f with
  | .cmd => { t with seq := .sIdle, cmds := BitVec.ofNat 72 w :: t.cmds }
  | .tans => atBeat (BitVec.ofNat 66 w) t
  | .rsp =>
    { t with seq := .sRespond, rspReady := true, rspValid := true, rsp := BitVec.ofNat 28 w }
  | .treq =>
    match decodeTreq (BitVec.ofNat 67 w) with
    | .ok i => atRequest i t
    | .error _ => t
  | .buscmd =>
    match decodeBuscmd (BitVec.ofNat 8 w) with
    | .ok i => atRequest i t
    | .error _ => t

end Sys2Proof.Machine
end

