-- ==== Sys2Proof/Machine/Dispatch.lean ====
section
/-! DEFINITION. One arm per row of the opcode table. -/

namespace Sys2Proof.Machine

def exec (i : Instr) (s : State) : Host.Outcome State Fault Refusal :=
  match i with
  -- the host operations
  | .scan arg => Sys2Proof.Machine.execScan arg s
  | .convert arg => Sys2Proof.Machine.execConvert arg s
  | .wait arg => Sys2Proof.Machine.execWait arg s
  | .read a => Sys2Proof.Machine.execRead a s
  | .crcclr arg => Sys2Proof.Machine.execCrcclr arg s
  | .crcbyte hi b => Sys2Proof.Machine.execCrcbyte hi b s
  -- the transport primitives
  | .tReset => Sys2Proof.Machine.execTReset s
  | .tSelect a => Sys2Proof.Machine.execTSelect a s
  | .tWrite v => Sys2Proof.Machine.execTWrite v s
  | .tRead => Sys2Proof.Machine.execTRead s
  | .tScan => Sys2Proof.Machine.execTScan s
  -- the bus command bytes
  | .cmdConvertT => Sys2Proof.Machine.execCmdConvertT s
  | .cmdReadScratchpad => Sys2Proof.Machine.execCmdReadScratchpad s
  -- the responses
  | .rspOk info data => Sys2Proof.Machine.execRspOk info data s
  | .rspInvalid info data => Sys2Proof.Machine.execRspInvalid info data s
  | .rspTransportFail info data => Sys2Proof.Machine.execRspTransportFail info data s
  | .rspIllegalOp info data => Sys2Proof.Machine.execRspIllegalOp info data s
  | .rspListOverflow info data => Sys2Proof.Machine.execRspListOverflow info data s
  -- the answer beats
  | .tansDone t => Sys2Proof.Machine.execTansDone t s
  | .tansFail t => Sys2Proof.Machine.execTansFail t s
  | .tansItem a => Sys2Proof.Machine.execTansItem a s

end Sys2Proof.Machine
end

