-- ==== Sys2Proof/Machine/Step.lean ====
section
/-! DEFINITION. One step of the block, and where a word stands so that the next step runs it. -/

namespace Sys2Proof.Machine

/-- One step: the next event (R11, R66). -/
def step (s : State) : Host.Outcome State Fault Refusal :=
  match nextEvent s with
  | .run i s' => exec i s'
  | .move s' => .next s'
  | .wait => .next s
  | .refuse r => .refused r

/-- `s` with a word of the opcode table placed so that the next step runs it (log 10, log 11). -/
def State.withFetchWord (s : State) (nbits w : Nat) : State :=
  match formatOfBits nbits with
  | some f => placeWord f w s
  | none => s

end Sys2Proof.Machine
end

