-- ==== Sys2Proof/Safety.lean ====
section
/-! DEFINITION. What a good state of the block is, what a transport that keeps its contract sends, and
the words the statements use about runs. -/

namespace Sys2Proof.Machine

/-- No beat comes for an abandoned request (R192). -/
def noLateBeat (s : State) : Prop := ∀ a ∈ s.abandoned, a.beats = []

/-- Not in reset, no request outstanding and no beat on the port: the next step is the engine's or the
host's. -/
def Running (s : State) : Prop :=
  s.rst = false ∧ s.port = .free ∧ s.tans = [] ∧ noLateBeat s

/-- Between operations: a command is accepted next (R130). -/
def Ready (s : State) : Prop := Running s ∧ s.seq = .sIdle

/-- Some number of steps leads from `s` to `t`. -/
def Reaches (s t : State) : Prop := ∃ n, Host.Core.run Sys2Proof.core n s = .next t

/-- The answer to a request that is done and has no items: one `DONE` beat (R88). -/
def doneAnswer (t : BitVec 64) : List TansWord := [doneBeat t]

/-- The transport's answers to one `READ`: twelve requests done, or fewer and then a failure (R136,
R143). -/
def readAnswers (answers : List (List TansWord)) : Prop :=
  (∃ ds : List (BitVec 64), ds.length = 12 ∧ answers = ds.map doneAnswer) ∨
    (∃ (ds : List (BitVec 64)) (f : BitVec 64), ds.length < 12 ∧
      answers = ds.map doneAnswer ++ [[failBeat f]])

/-- The request an instruction of the transport port stands for (R51, R87, R89). -/
def requestOf : Instr → Option Request
  | .tReset => some .reset
  | .tSelect a => some (.select a)
  | .tWrite v => some (.write v)
  | .tRead => some .read
  | .tScan => some .scan
  | .cmdConvertT => some (.write Config.cmdConvertT)
  | .cmdReadScratchpad => some (.write Config.cmdReadScratchpad)
  | .scan _ | .convert _ | .wait _ | .read _ | .crcclr _ | .crcbyte _ _ => none
  | .rspOk _ _ | .rspInvalid _ _ | .rspTransportFail _ _ | .rspIllegalOp _ _
  | .rspListOverflow _ _ => none
  | .tansDone _ | .tansFail _ | .tansItem _ => none

/-- The requests of `CONVERT` when none fails (R133, R143). -/
def convertRequests (list : List Addr) : List Request :=
  list.flatMap fun a => [.reset, .select a, .write Config.cmdConvertT]

/-- The twelve requests of `READ a` when none fails (R136, R143). -/
def readRequests (a : Addr) : List Request :=
  [.reset, .select a, .write Config.cmdReadScratchpad] ++ List.replicate 9 .read

/-- The request that is outstanding in each state of `SEQ`, if one is (R131, R133, R137, R138). Only a
scan's answer has items (R88), and `CONVERT` works on an entry of the list. -/
def portMatches (s : State) : Prop :=
  match s.port with
  | .free => True
  | .waiting r items =>
    match s.seq with
    | .sScan => r = .scan
    | .sConvReset => r = .reset ∧ items = [] ∧ s.devidx < s.devcnt
    | .sConvSelect => (∃ a, s.devlist[s.devidx]? = some a ∧ r = .select a) ∧ items = []
    | .sConvWrite => r = .write Config.cmdConvertT ∧ items = []
    | .sRdReset => r = .reset ∧ items = []
    | .sRdSelect => r = .select s.arg ∧ items = []
    | .sRdWrite => r = .write Config.cmdReadScratchpad ∧ items = []
    | .sRdBytes => r = .read ∧ items = [] ∧ s.bytecnt < 9#4
    | .sIdle | .sWait | .sRdCrc | .sRdCheck | .sCrcRun | .sRespond => False

/-- `DEVIDX` runs over the list (R26). -/
def devidxInRange (s : State) : Prop :=
  match s.seq with
  | .sConvReset => s.devidx ≤ s.devcnt
  | .sConvSelect | .sConvWrite => s.devidx < s.devcnt
  | .sIdle | .sScan | .sWait | .sRdReset | .sRdSelect | .sRdWrite | .sRdBytes | .sRdCrc
  | .sRdCheck | .sCrcRun | .sRespond => True

/-- `SEQ` is in a state of the operation that `OP` names (R27, R28). -/
def seqMatchesOp (s : State) : Prop :=
  match s.seq with
  | .sScan => s.op = 0x01#8
  | .sConvReset | .sConvSelect | .sConvWrite => s.op = 0x02#8
  | .sWait => s.op = 0x03#8
  | .sRdReset | .sRdSelect | .sRdWrite | .sRdBytes | .sRdCrc | .sRdCheck => s.op = 0x04#8
  | .sCrcRun => s.op = 0x09#8
  | .sIdle | .sRespond => True

/-- The operation codes of R82. -/
def opAssigned (op : Byte) : Bool :=
  op == 0x01#8 || op == 0x02#8 || op == 0x03#8 || op == 0x04#8 || op == 0x08#8 || op == 0x09#8

/-- Which operation may end in which outcome (R85, R160). -/
def outcomeAllowed (op : Byte) : Instr → Bool
  | .rspOk _ _ => opAssigned op
  | .rspInvalid _ _ => op == 0x04#8
  | .rspTransportFail _ _ => op == 0x01#8 || op == 0x02#8 || op == 0x04#8
  | .rspIllegalOp _ _ => !opAssigned op
  | .rspListOverflow _ _ => op == 0x01#8
  | .scan _ | .convert _ | .wait _ | .read _ | .crcclr _ | .crcbyte _ _ => false
  | .tReset | .tSelect _ | .tWrite _ | .tRead | .tScan => false
  | .cmdConvertT | .cmdReadScratchpad => false
  | .tansDone _ | .tansFail _ | .tansItem _ => false

/-- The CRC in progress (R139): the bit iterations still to do on `ACC` give the CRC of the bytes fed so
far, and at the check `ACC` is the CRC of all eight. -/
def crcInProgress (s : State) : Prop :=
  match s.seq with
  | .sRdCrc =>
    s.bytecnt ≤ 8#4 ∧
      crcBits s.bitcnt.toNat s.acc = crc8 ((crcCovered s.sp).take s.bytecnt.toNat)
  | .sRdCheck => s.acc = crc8 (crcCovered s.sp)
  | .sIdle | .sScan | .sConvReset | .sConvSelect | .sConvWrite | .sWait | .sRdReset
  | .sRdSelect | .sRdWrite | .sRdBytes | .sCrcRun | .sRespond => True

/-- The invariant of the block: it holds after reset and every step keeps it. -/
structure Inv (s : State) : Prop where
  /-- `BITCNT` never passes 8 (R22). -/
  bitcnt_le : s.bitcnt ≤ 8#4
  /-- No bit iteration is left over outside the CRC states (R22). -/
  bitcnt_zero : s.seq ≠ .sRdCrc → s.seq ≠ .sCrcRun → s.bitcnt = 0#4
  /-- `BYTECNT` never passes 9 (R24). -/
  bytecnt_le : s.bytecnt ≤ 9#4
  /-- `DEVCNT` never passes `MAX_DEV` (R25). -/
  list_fits : fits s.cfg s.devcnt = true
  devidx_in_range : devidxInRange s
  seq_matches_op : seqMatchesOp s
  /-- `WAITCNT` never passes `WAIT_TICKS` (R29). -/
  waitcnt_le : s.waitcnt ≤ waitTicks s.cfg
  /-- A word waits exactly in `S_RESPOND` (R31). -/
  rsp_valid_iff : s.rspValid = true ↔ s.seq = .sRespond
  /-- `RSP` holds a word the block may produce (R84, R86, R94). -/
  rsp_well_formed : ∃ i, decodeRsp s.rsp = .ok i ∧ i.wellFormed = true
  /-- The outcome that waits is one its operation may end in (R85, R160). -/
  outcome_allowed : s.seq = .sRespond → ∃ i, decodeRsp s.rsp = .ok i ∧ outcomeAllowed s.op i = true
  port_matches : portMatches s
  crc_in_progress : crcInProgress s
  /-- The parameters are in their ranges (R7). -/
  cfg_wf : s.cfg.wf = true

/-- These beats are the answer to request `r`, or what has come of it so far (R88): `ITEM` beats only if
`r` is `T_SCAN`, nothing of the reserved kind, and nothing after the `DONE` or `FAIL`. -/
def answerAllowed (r : Request) : List TansWord → Prop
  | [] => True
  | w :: rest =>
    if tansKind w = 2#2 then r = .scan ∧ answerAllowed r rest else tansKind w ≠ 3#2 ∧ rest = []

/-- The beats that are there keep the contract of R88, and none comes that answers no request. -/
def transportKeepsContract (s : State) : Prop :=
  (∀ a ∈ s.abandoned, answerAllowed a.request a.beats) ∧
    match s.port with
    | .waiting r _ => answerAllowed r s.tans
    | .free => s.tans = []

/-- Commands that are accepted and not yet answered: 1 while the block is busy, else 0 (R30, R84). -/
def inProgress (s : State) : Nat := if busy s = true then 1 else 0

/-- Flip the bit numbered `n` of a scratchpad, bit 0 of byte 0 first. -/
def flipBit (sp : Vector Byte 9) (n : Nat) : Vector Byte 9 :=
  sp.mapFinIdx fun i b _ => if n / 8 = i then b ^^^ (1#8 <<< (n % 8)) else b

/-- The response validator's test of a scratchpad (R140). -/
def scratchpadValid (sp : Vector Byte 9) : Prop := crc8 (crcCovered sp) = sp[8]

end Sys2Proof.Machine
end

