-- ==== Sys2Proof/Certificates/Slice0/Obligations.lean ====
section
/-! DEFINITION. The statements about the block, from the numbered rules of the spec. -/

open Sys2Proof Sys2Proof.Machine

/-! ## Encodings -/

/-- Decoding the encoded word of an instruction gives the instruction back, with every operand at every
value (30_encoding.md R81 to R89). -/
def Obligations.DecodeOfEncode : Prop :=
  ∀ i : Instr, decode i.format (encode i) = .ok i

/-- A word that decodes is the word of what it decodes to: no two words of a format share a meaning and
no bit of a word is dropped (R81 to R89). -/
def Obligations.EncodeOfDecode : Prop :=
  ∀ (f : Format) (w : BitVec f.bits) (i : Instr), decode f w = .ok i →
    i.format = f ∧ (encode i).toNat = w.toNat

/-- R93: the reserved `op` values, and no others, are rejected, under their own name. -/
def Obligations.ReservedOpsRejected : Prop :=
  ∀ w : CmdWord,
    decodeCmd w = .error (.reservedOp (cmdOp w)) ↔
      cmdOp w = 0x00#8 ∨ (0x05#8 ≤ cmdOp w ∧ cmdOp w ≤ 0x07#8) ∨ 0x0A#8 ≤ cmdOp w

/-- A word of every row, written out from the tables of 30_encoding.md, decodes to what it stands for
(R82, R85, R87, R88, R89). -/
def Obligations.SpecWordsDecode : Prop :=
  (decodeCmd 0x010000000000000000#72 = .ok (.scan 0#64) ∧
    decodeCmd 0x028000000000000001#72 = .ok (.convert 0x8000000000000001#64) ∧
    decodeCmd 0x030000000000000000#72 = .ok (.wait 0#64) ∧
    decodeCmd 0x045666554433221128#72 = .ok (.read 0x5666554433221128#64) ∧
    decodeCmd 0x080000000000000000#72 = .ok (.crcclr 0#64) ∧
    decodeCmd 0x09FFFFFFFFFFFFFF05#72 = .ok (.crcbyte 0xFFFFFFFFFFFFFF#56 0x05#8)) ∧
  (decodeTreq 0x00000000000000000#67 = .ok .tReset ∧
    decodeTreq 0x16701EEDDCCBBAA28#67 = .ok (.tSelect 0x6701EEDDCCBBAA28#64) ∧
    decodeTreq 0x20000000000000044#67 = .ok (.tWrite 0x44#8) ∧
    decodeTreq 0x30000000000000000#67 = .ok .tRead ∧
    decodeTreq 0x40000000000000000#67 = .ok .tScan) ∧
  (decodeTans 0x00000000000000150#66 = .ok (.tansDone 0x150#64) ∧
    decodeTans 0x10000000000000007#66 = .ok (.tansFail 7#64) ∧
    decodeTans 0x25666554433221128#66 = .ok (.tansItem 0x5666554433221128#64)) ∧
  (decodeRsp 0x0000550#28 = .ok (.rspOk 0#8 0x0550#16) ∧
    decodeRsp 0x1001234#28 = .ok (.rspInvalid 0#8 0x1234#16) ∧
    decodeRsp 0x2070000#28 = .ok (.rspTransportFail 0x07#8 0#16) ∧
    decodeRsp 0x3000000#28 = .ok (.rspIllegalOp 0#8 0#16) ∧
    decodeRsp 0x4000000#28 = .ok (.rspListOverflow 0#8 0#16)) ∧
  decodeBuscmd 0x44#8 = .ok .cmdConvertT ∧ decodeBuscmd 0xBE#8 = .ok .cmdReadScratchpad

/-- The command words of the assembly lines (R97, R98). -/
def Obligations.AssemblyWords : Prop :=
  (∀ a : Addr, assemble [.scan, .convert, .wait, .read a, .crcclr] =
    [cmdWord 0x01#8 0#64, cmdWord 0x02#8 0#64, cmdWord 0x03#8 0#64, cmdWord 0x04#8 a,
      cmdWord 0x08#8 0#64]) ∧
  (∀ b : Byte, assemble [.crcbyte b] = [cmdWord 0x09#8 (0#56 ++ b)]) ∧
  (∀ bs : List Byte, assemble [.crc8 bs] =
    cmdWord 0x08#8 0#64 :: bs.map fun b => cmdWord 0x09#8 (0#56 ++ b)) ∧
  (∀ a : Addr, assemble [.measure a] =
    [cmdWord 0x02#8 0#64, cmdWord 0x03#8 0#64, cmdWord 0x04#8 a])

/-- R61, R90: byte `k` of an address stands in bits `8k+7:8k`, and eight bytes make the address they
are the bytes of. -/
def Obligations.AddressByteOrder : Prop :=
  (∀ (b : Vector Byte 8) (k : Nat) (h : k < 8), addrByte (addrOfBytes b) k = b[k]) ∧
  (∀ a : Addr, addrOfBytes (Vector.ofFn fun k : Fin 8 => addrByte a k) = a)

/-! ## A step runs the decoded word -/

/-- Where the block is ready and the host presents a command that decodes to `i`, the step takes the word
and is `exec i` (R130). -/
def Obligations.StepRunsAcceptedCommand : Prop :=
  ∀ (s : State) (w : CmdWord) (rest : List CmdWord) (i : Instr),
    Ready s → s.cmds = w :: rest → decodeCmd w = .ok i →
      step s = exec i { s with cmds := rest }

/-- Where the next beat on the port decodes to `i`, the step takes the beat and is `exec i` (R88). That
one beat is one step is the model's choice (DESIGN CHOICE, log 1): R52 counts a request with its whole
answer as one step. -/
def Obligations.StepRunsAnswerBeat : Prop :=
  ∀ (s : State) (w : TansWord) (rest : List TansWord) (i : Instr),
    s.rst = false → noLateBeat s → s.tans = w :: rest → decodeTans w = .ok i →
      step s = exec i { s with tans := rest }

/-- Where a response waits that decodes to `i` and the host is ready, the step is `exec i` (R132). -/
def Obligations.StepRunsWaitingResponse : Prop :=
  ∀ (s : State) (i : Instr),
    Running s → s.seq = .sRespond → s.rspReady = true → decodeRsp s.rsp = .ok i →
      step s = exec i s

/-- Where `SEQ` calls for a request and none is outstanding, the step is the instruction of that request:
the one the pseudocode of R131, R133, R137 and R138 names for the state. The write of a bus command byte
is the same as that byte's own row (R89). -/
def Obligations.StepRunsEngineRequest : Prop :=
  ∀ s : State, Running s →
    (s.seq = .sScan → step s = exec .tScan s) ∧
    (s.seq = .sConvReset → s.devidx ≠ s.devcnt → step s = exec .tReset s) ∧
    (s.seq = .sConvSelect → ∀ a, s.devlist[s.devidx]? = some a → step s = exec (.tSelect a) s) ∧
    (s.seq = .sConvWrite →
      step s = exec (.tWrite 0x44#8) s ∧ step s = exec .cmdConvertT s) ∧
    (s.seq = .sRdReset → step s = exec .tReset s) ∧
    (s.seq = .sRdSelect → step s = exec (.tSelect s.arg) s) ∧
    (s.seq = .sRdWrite →
      step s = exec (.tWrite 0xBE#8) s ∧ step s = exec .cmdReadScratchpad s) ∧
    (s.seq = .sRdBytes → s.bytecnt < 9#4 → step s = exec .tRead s)

/-- A command word placed by `withFetchWord` is what the next step runs (the model's own reading of how a
command reaches the block: log 10). -/
def Obligations.PlacedCommandRuns : Prop :=
  ∀ (s : State) (w : CmdWord) (i : Instr), decodeCmd w = .ok i →
    step (s.withFetchWord 72 w.toNat) =
      exec i { s with rst := false, port := .free, tans := [], abandoned := [], seq := .sIdle }

/-! ## Commands -/

/-- R130: what the accepting step does for each of the six operations (`CRCCLR` as R113, the load of
`CRCBYTE` as R114), for any other op, and that a word offered while the block is busy is held. That the
load of `CRCBYTE` (`ACC` XOR the byte, `BITCNT` = 8) is part of the accepting step, where R112 counts it as
a step of its own, is the model's choice (DESIGN CHOICE, log 9). So is that `exec` of a command row answers the
same state while the block is busy (DESIGN CHOICE, log 12): R130 says that the step is not enabled there and the
word is held. -/
def Obligations.CommandAccepted : Prop :=
  (∀ s : State, s.seq = .sIdle →
    (∀ x, exec (.scan x) s = .next { s with op := 0x01#8, arg := x, seq := .sScan }) ∧
    (∀ x, exec (.convert x) s =
      .next { s with op := 0x02#8, arg := x, devidx := 0, seq := .sConvReset }) ∧
    (∀ x, exec (.wait x) s =
      .next { s with op := 0x03#8, arg := x, waitcnt := waitTicks s.cfg, seq := .sWait }) ∧
    (∀ a, exec (.read a) s =
      .next { s with op := 0x04#8, arg := a, bytecnt := 0#4, seq := .sRdReset }) ∧
    (∀ x, exec (.crcclr x) s =
      .next { s with
        op := 0x08#8, arg := x, acc := 0x00#8, bitcnt := 0#4,
        rsp := rspWord .ok 0#8 0#16, rspValid := true, seq := .sRespond }) ∧
    (∀ (hi : BitVec 56) (b : Byte), exec (.crcbyte hi b) s =
      .next { s with
        op := 0x09#8, arg := hi ++ b, acc := s.acc ^^^ b, bitcnt := 8#4, seq := .sCrcRun })) ∧
  (∀ (s : State) (rest : List CmdWord), Ready s →
    (∀ x, s.cmds = cmdWord 0x01#8 x :: rest → step s = exec (.scan x) { s with cmds := rest }) ∧
    (∀ x, s.cmds = cmdWord 0x02#8 x :: rest → step s = exec (.convert x) { s with cmds := rest }) ∧
    (∀ x, s.cmds = cmdWord 0x03#8 x :: rest → step s = exec (.wait x) { s with cmds := rest }) ∧
    (∀ a, s.cmds = cmdWord 0x04#8 a :: rest → step s = exec (.read a) { s with cmds := rest }) ∧
    (∀ x, s.cmds = cmdWord 0x08#8 x :: rest → step s = exec (.crcclr x) { s with cmds := rest }) ∧
    (∀ (hi : BitVec 56) (b : Byte), s.cmds = cmdWord 0x09#8 (hi ++ b) :: rest →
      step s = exec (.crcbyte hi b) { s with cmds := rest }) ∧
    (∀ w, s.cmds = w :: rest → opAssigned (cmdOp w) = false →
      step s = .next { s with
        cmds := rest, op := cmdOp w, arg := cmdArg w,
        rsp := rspWord .illegalOp 0#8 0#16, rspValid := true, seq := .sRespond })) ∧
  (∀ s : State, s.seq ≠ .sIdle → ∀ i : Instr, i.format = .cmd → exec i s = .next s) ∧
  (∀ s t : State, s.seq ≠ .sIdle → step s = .next t → t.cmds = s.cmds)

/-- R164: a command whose op is one of the reserved values of R93 is consumed and latched, answered
`ILLEGAL_OP`, and changes nothing else. -/
def Obligations.ReservedOpAnswered : Prop :=
  ∀ (s : State) (w : CmdWord) (rest : List CmdWord), Ready s → s.cmds = w :: rest →
    cmdOp w = 0x00#8 ∨ (0x05#8 ≤ cmdOp w ∧ cmdOp w ≤ 0x07#8) ∨ 0x0A#8 ≤ cmdOp w →
    step s = .next { s with
      cmds := rest, op := cmdOp w, arg := cmdArg w,
      rsp := rspWord .illegalOp 0#8 0#16, rspValid := true, seq := .sRespond }

/-! ## The transport port -/

/-- Each primitive, and each bus command byte, issues its request when none is outstanding, and changes
nothing but the port (R52 to R57, R89). That the beats of the transport's answer come from the script
`answers` is the model's form of the oracle (DESIGN CHOICE, log 2). -/
def Obligations.RequestsIssued : Prop :=
  ∀ (s u : State), s.port = .free →
    u = { s with tans := s.tans ++ s.answers.headD [], answers := s.answers.tail } →
    exec .tReset s =
      .next { u with port := .waiting .reset [], trace := s.trace ++ [.req .reset] } ∧
    (∀ a, exec (.tSelect a) s =
      .next { u with port := .waiting (.select a) [], trace := s.trace ++ [.req (.select a)] }) ∧
    (∀ v, exec (.tWrite v) s =
      .next { u with port := .waiting (.write v) [], trace := s.trace ++ [.req (.write v)] }) ∧
    exec .tRead s =
      .next { u with port := .waiting .read [], trace := s.trace ++ [.req .read] } ∧
    exec .tScan s =
      .next { u with port := .waiting .scan [], trace := s.trace ++ [.req .scan] } ∧
    exec .cmdConvertT s =
      .next { u with
        port := .waiting (.write 0x44#8) [], trace := s.trace ++ [.req (.write 0x44#8)] } ∧
    exec .cmdReadScratchpad s =
      .next { u with
        port := .waiting (.write 0xBE#8) [], trace := s.trace ++ [.req (.write 0xBE#8)] }

/-- With a request outstanding no other is issued, and until its answer comes the block waits, without
limit, and nothing changes. That `exec` of a request row answers the same state while one is outstanding is
the model's choice (DESIGN CHOICE, log 12), and so is the repeated state of the waiting step (DESIGN CHOICE,
log 3); R52 and R172 say what these stand for. -/
def Obligations.OneRequestOutstanding : Prop :=
  ∀ (s : State) (r : Request) (items : List Addr), s.port = .waiting r items →
    (∀ (i : Instr) (q : Request), requestOf i = some q → exec i s = .next s) ∧
    (s.rst = false → noLateBeat s → s.tans = [] → step s = .next s)

/-- A `DONE` beat closes the request and takes `CONVERT` or the command phase of `READ` to the state the
pseudocode of R133 and R137 names; it changes nothing else. -/
def Obligations.DoneContinuesOperation : Prop :=
  ∀ (s u : State) (r : Request) (items : List Addr) (t : BitVec 64),
    s.port = .waiting r items →
    u = { s with port := .free, trace := s.trace ++ [.ans (doneBeat t)] } →
    (s.seq = .sConvReset → exec (.tansDone t) s = .next { u with seq := .sConvSelect }) ∧
    (s.seq = .sConvSelect → exec (.tansDone t) s = .next { u with seq := .sConvWrite }) ∧
    (s.seq = .sConvWrite →
      exec (.tansDone t) s = .next { u with devidx := s.devidx + 1, seq := .sConvReset }) ∧
    (s.seq = .sRdReset → exec (.tansDone t) s = .next { u with seq := .sRdSelect }) ∧
    (s.seq = .sRdSelect → exec (.tansDone t) s = .next { u with seq := .sRdWrite }) ∧
    (s.seq = .sRdWrite → exec (.tansDone t) s = .next { u with bytecnt := 0#4, seq := .sRdBytes })

/-- R138, the byte phase: the byte goes to `SP[BYTECNT]` and to no other place, and `BYTECNT` counts it. -/
def Obligations.ReadByteStored : Prop :=
  ∀ (s : State) (r : Request) (items : List Addr) (t : BitVec 64),
    s.port = .waiting r items → s.seq = .sRdBytes → s.bytecnt < 9#4 →
    ∃ sp' : Vector Byte 9,
      exec (.tansDone t) s = .next { s with
        port := .free, trace := s.trace ++ [.ans (doneBeat t)],
        sp := sp', bytecnt := s.bytecnt + 1#4 } ∧
      ∀ (k : Nat) (h : k < 9), sp'[k] = if k = s.bytecnt.toNat then t.setWidth 8 else s.sp[k]

/-- R131, R165: the scan's answer replaces the list whole, in its order, with `DEVCNT` in the response;
an answer longer than `MAX_DEV` leaves the list as it was. -/
def Obligations.ScanReplacesList : Prop :=
  ∀ (s : State) (items : List Addr) (t : BitVec 64),
    s.port = .waiting .scan items → s.seq = .sScan →
    ((∀ m, s.cfg.maxDev = some m → items.length ≤ m) →
      exec (.tansDone t) s = .next { s with
        port := .free, trace := s.trace ++ [.ans (doneBeat t)], devlist := items,
        rsp := rspWord .ok 0#8 (BitVec.ofNat 16 items.length), rspValid := true,
        seq := .sRespond }) ∧
    (∀ m, s.cfg.maxDev = some m → m < items.length →
      exec (.tansDone t) s = .next { s with
        port := .free, trace := s.trace ++ [.ans (doneBeat t)],
        rsp := rspWord .listOverflow 0#8 0#16, rspValid := true, seq := .sRespond })

/-- R167, R163: a `FAIL` beat aborts the operation in any state that has a request outstanding: the code
is passed on bit for bit, `data` is 0, and nothing else changes. -/
def Obligations.FailAbortsOperation : Prop :=
  ∀ (s : State) (r : Request) (items : List Addr) (t : BitVec 64),
    s.port = .waiting r items →
    s.seq ∈ [.sScan, .sConvReset, .sConvSelect, .sConvWrite, .sRdReset, .sRdSelect, .sRdWrite,
      .sRdBytes] →
    exec (.tansFail t) s = .next { s with
      port := .free, trace := s.trace ++ [.ans (failBeat t)],
      rsp := rspWord .transportFail (t.setWidth 8) 0#16, rspValid := true, seq := .sRespond }

/-- An `ITEM` beat of a scan's answer is kept after those that came before it (R88). -/
def Obligations.ScanItemsKeptInOrder : Prop :=
  ∀ (s : State) (items : List Addr) (a : Addr), s.port = .waiting .scan items →
    exec (.tansItem a) s = .next { s with
      port := .waiting .scan (items ++ [a]), trace := s.trace ++ [.ans (itemBeat a)] }

/-- R94: a beat of the reserved kind, an `ITEM` beat in the answer to another request than `T_SCAN`, and a
beat that answers no request are refused, each by name. That the refusal is that of the step which finds the
beat next on the port, an unsolicited one on a free port too, is the model's choice (DESIGN CHOICE, log 14): R94
and U9 say only that a model should treat such a breach as a refusal. -/
def Obligations.ContractBreachesRefused : Prop :=
  (∀ (s : State) (w : TansWord) (rest : List TansWord),
    s.rst = false → noLateBeat s → s.tans = w :: rest →
    (tansKind w = 3#2 → step s = .refused .reservedBeatKind) ∧
    (∀ (r : Request) (items : List Addr), s.port = .waiting r items → tansKind w = 2#2 → r ≠ .scan →
      step s = .refused .itemOutsideScan) ∧
    (s.port = .free → tansKind w ≠ 3#2 → step s = .refused .strayBeat)) ∧
  (∀ (s : State) (r : Request) (items : List Addr) (a : Addr),
    s.port = .waiting r items → r ≠ .scan →
      exec (.tansItem a) s = .refused .itemOutsideScan) ∧
  (∀ s : State, s.port = .free →
    (∀ t, exec (.tansDone t) s = .refused .strayBeat) ∧
    (∀ t, exec (.tansFail t) s = .refused .strayBeat) ∧
    (∀ a, exec (.tansItem a) s = .refused .strayBeat))

/-- R89: whatever a step does, the port's trace only grows, at its end, and the only bytes any request
writes on the bus are 0x44 and 0xBE. -/
def Obligations.OnlyTwoBytesWritten : Prop :=
  ∀ s t : State, step s = .next t →
    ∃ events : List PortEvent, t.trace = s.trace ++ events ∧
      ∀ v : Byte, .req (.write v) ∈ events → v = 0x44#8 ∨ v = 0xBE#8

/-! ## The engine's own steps -/

/-- `CONVERT` ends, and issues nothing, when `DEVIDX = DEVCNT` (R133). -/
def Obligations.ConvertEndsAtListEnd : Prop :=
  ∀ s : State, Running s → s.seq = .sConvReset → s.devidx = s.devcnt →
    step s = .next { s with
      rsp := rspWord .ok 0#8 0#16, rspValid := true, seq := .sRespond }

/-- The tick step of `WAIT` (R135). -/
def Obligations.WaitTick : Prop :=
  ∀ s : State, Running s → s.seq = .sWait →
    (0 < s.waitcnt → step s = .next { s with waitcnt := s.waitcnt - 1 }) ∧
    (s.waitcnt = 0 → step s = .next { s with
      rsp := rspWord .ok 0#8 0#16, rspValid := true, seq := .sRespond })

/-- The steps of the CRC unit: in `S_CRC_RUN` (R114), the turn to the CRC phase of `READ` (R138) and that
phase (R139). -/
def Obligations.CrcUnitSteps : Prop :=
  ∀ s : State, Running s →
    (s.seq = .sCrcRun → 0#4 < s.bitcnt →
      step s = .next { s with acc := crcBit s.acc, bitcnt := s.bitcnt - 1#4 }) ∧
    (s.seq = .sCrcRun → s.bitcnt = 0#4 →
      step s = .next { s with
        rsp := rspWord .ok 0#8 (s.acc.setWidth 16), rspValid := true, seq := .sRespond }) ∧
    (s.seq = .sRdBytes → 9#4 ≤ s.bytecnt →
      step s = .next { s with
        acc := 0x00#8, bitcnt := 0#4, bytecnt := 0#4, seq := .sRdCrc }) ∧
    (s.seq = .sRdCrc → 0#4 < s.bitcnt →
      step s = .next { s with acc := crcBit s.acc, bitcnt := s.bitcnt - 1#4 }) ∧
    (∀ k : Nat, s.seq = .sRdCrc → s.bitcnt = 0#4 → s.bytecnt = BitVec.ofNat 4 k →
      ∀ h : k < 8, step s = .next { s with
        acc := s.acc ^^^ s.sp[k], bitcnt := 8#4, bytecnt := s.bytecnt + 1#4 }) ∧
    (s.seq = .sRdCrc → s.bitcnt = 0#4 → 8#4 ≤ s.bytecnt →
      step s = .next { s with seq := .sRdCheck })

/-- R140: the check compares all eight bits; a match answers `OK` with `{SP[1], SP[0]}`, anything else
answers `INVALID`, whatever its data bits. -/
def Obligations.CheckDecidesValidity : Prop :=
  ∀ s : State, Running s → s.seq = .sRdCheck →
    (s.acc = s.sp[8] →
      step s = .next { s with
        rsp := rspWord .ok 0#8 (s.sp[1] ++ s.sp[0]), rspValid := true, seq := .sRespond }) ∧
    (s.acc ≠ s.sp[8] →
      ∃ data : BitVec 16, step s = .next { s with
        rsp := rspWord .invalid 0#8 data, rspValid := true, seq := .sRespond,
        draws := s.draws + 1 })

/-! ## Responses -/

/-- R132: each of the five response words is delivered when it waits and the host is ready, and until
then the block stays as it is. That the step answers the same state while the host is not ready is the model's
choice (DESIGN CHOICE, log 3): no step of the block is enabled there. -/
def Obligations.ResponseDelivered : Prop :=
  (∀ (s : State) (info : Byte) (data : BitVec 16), s.seq = .sRespond → s.rspReady = true →
    (s.rsp = rspWord .ok info data → exec (.rspOk info data) s =
      .next { s with delivered := s.delivered ++ [s.rsp], rspValid := false, seq := .sIdle }) ∧
    (s.rsp = rspWord .invalid info data → exec (.rspInvalid info data) s =
      .next { s with delivered := s.delivered ++ [s.rsp], rspValid := false, seq := .sIdle }) ∧
    (s.rsp = rspWord .transportFail info data → exec (.rspTransportFail info data) s =
      .next { s with delivered := s.delivered ++ [s.rsp], rspValid := false, seq := .sIdle }) ∧
    (s.rsp = rspWord .illegalOp info data → exec (.rspIllegalOp info data) s =
      .next { s with delivered := s.delivered ++ [s.rsp], rspValid := false, seq := .sIdle }) ∧
    (s.rsp = rspWord .listOverflow info data → exec (.rspListOverflow info data) s =
      .next { s with delivered := s.delivered ++ [s.rsp], rspValid := false, seq := .sIdle })) ∧
  (∀ s : State, Running s → s.seq = .sRespond → s.rspReady = false → step s = .next s)

/-- One response for each command: the commands not yet accepted, the one in progress and the responses
delivered always add up to the same number (R84, R132). -/
def Obligations.OneResponsePerCommand : Prop :=
  ∀ s t : State, Inv s → s.rst = false → step s = .next t →
    t.cmds.length + inProgress t + t.delivered.length =
      s.cmds.length + inProgress s + s.delivered.length

/-! ## Reset -/

/-- The values R42 gives for reset. -/
def Obligations.ResetValues : Prop :=
  State.reset.devcnt = 0 ∧ State.reset.acc = 0x00#8 ∧ State.reset.bitcnt = 0#4 ∧
  State.reset.bytecnt = 0#4 ∧ State.reset.devidx = 0 ∧ State.reset.seq = .sIdle ∧
  State.reset.op = 0#8 ∧ State.reset.arg = 0#64 ∧ State.reset.waitcnt = 0 ∧
  State.reset.rspValid = false ∧ State.reset.rsp = 0#28 ∧ State.reset.port = .free ∧
  ∀ k, windowRead k State.reset 0x000 = 0#64 ∧ windowRead k State.reset 0x001 = 0#64 ∧
    windowRead k State.reset 0x002 = 0#64

/-- While `rst` is asserted every piece of state with a reset value takes it, whatever was in progress: no
response is produced, a waiting one is discarded, no request is issued (R190, R192). A request that was
outstanding is abandoned, with the beats of its answer, those that have come and those that are yet to come
(the model's form of it: log 13). -/
def Obligations.ResetEndsOperation : Prop :=
  ∀ s : State, s.rst = true → ∃ t : State, step s = .next t ∧
    t.devlist = [] ∧ t.acc = 0x00#8 ∧ t.bitcnt = 0#4 ∧ t.bytecnt = 0#4 ∧ t.devidx = 0 ∧
    t.seq = .sIdle ∧ t.op = 0#8 ∧ t.arg = 0#64 ∧ t.waitcnt = 0 ∧ t.rspValid = false ∧
    t.rsp = 0#28 ∧ t.port = .free ∧
    t.trace = s.trace ∧ t.delivered = s.delivered ∧ t.cmds = s.cmds ∧ t.cfg = s.cfg ∧
    t.answers = s.answers ∧
    (s.port = .free → t.tans = s.tans ∧ t.abandoned = s.abandoned) ∧
    (∀ (r : Request) (items : List Addr), s.port = .waiting r items →
      t.tans = [] ∧ t.abandoned = s.abandoned ++ [⟨r, s.tans⟩])

/-! ## The register window -/

/-- R33: `STATUS` holds `BUSY` in bit 0, `RSP_VALID` in bit 1 and zeros, is 0 after reset, and is
read-only. -/
def Obligations.StatusRegister : Prop :=
  (∀ (s : State) (k n : Nat), n < 64 →
    (windowRead k s 0x000).getLsbD n =
      if n = 0 then decide (s.seq ≠ .sIdle) else if n = 1 then s.rspValid else false) ∧
  (∀ k : Nat, windowRead k State.reset 0x000 = 0#64) ∧
  (∀ (s : State) (v : BitVec 64), windowWrite s 0x000 v = s)

/-- R34, R35: `DEVCNT` and `CRC` read as the zero-extended list length and accumulator. -/
def Obligations.CountAndCrcRegisters : Prop :=
  ∀ (s : State) (k : Nat),
    windowRead k s 0x001 = BitVec.ofNat 64 s.devlist.length ∧
    windowRead k s 0x002 = s.acc.setWidth 64

/-- `DEVADDR[i]` reads entry `i` of the list for `i < DEVCNT`, on every block whose list fits (R36, R65). -/
def Obligations.DeviceAddressRegisters : Prop :=
  ∀ (s : State) (k i : Nat) (h : i < s.devlist.length),
    (∀ m, s.cfg.maxDev = some m → s.devlist.length ≤ m) →
      windowRead k s (0x100 + i) = s.devlist[i]

/-- R37: the addresses that are not listed read 0, and a write to any address changes nothing. -/
def Obligations.WindowReservedAndReadOnly : Prop :=
  (∀ (s : State) (k a : Nat), 0x003 ≤ a → a ≤ 0x0FF → windowRead k s a = 0#64) ∧
  (∀ (s : State) (k a m : Nat), s.cfg.maxDev = some m → 0x100 + m ≤ a →
    windowRead k s a = 0#64) ∧
  (∀ (s : State) (a : Nat) (v : BitVec 64), windowWrite s a v = s)

/-! ## The CRC unit -/

/-- R111: the iteration bit by bit, with the feedback bit `acc[0]`; it is a bijection on the accumulator
values and maps 0x00 to 0x00. -/
def Obligations.CrcBitTable : Prop :=
  (∀ acc : Byte,
    (crcBit acc).getLsbD 7 = acc.getLsbD 0 ∧ (crcBit acc).getLsbD 6 = acc.getLsbD 7 ∧
    (crcBit acc).getLsbD 5 = acc.getLsbD 6 ∧ (crcBit acc).getLsbD 4 = acc.getLsbD 5 ∧
    (crcBit acc).getLsbD 3 = xor (acc.getLsbD 4) (acc.getLsbD 0) ∧
    (crcBit acc).getLsbD 2 = xor (acc.getLsbD 3) (acc.getLsbD 0) ∧
    (crcBit acc).getLsbD 1 = acc.getLsbD 2 ∧ (crcBit acc).getLsbD 0 = acc.getLsbD 1) ∧
  Function.Bijective crcBit ∧ crcBit 0x00#8 = 0x00#8

/-- R116: the serial-input form gives the same result for every accumulator and byte. -/
def Obligations.SerialFormAgrees : Prop :=
  ∀ acc b : Byte, crcByteSerial acc b = crcByte acc b

/-- R117: the residue, and the two forms of the validator's test. -/
def Obligations.ResidueIsZero : Prop :=
  (∀ bytes : List Byte, crc8 (bytes ++ [crc8 bytes]) = 0x00#8) ∧
  (∀ (bytes : List Byte) (b : Byte), bytes.length = 8 →
    (crc8 bytes = b ↔ crc8 (bytes ++ [b]) = 0x00#8))

/-- R118: `crc8` is linear over XOR for sequences of equal length, is 0 on zeros, and ignores zero bytes
at the front. -/
def Obligations.CrcLinear : Prop :=
  (∀ x y : List Byte, x.length = y.length →
    crc8 (List.zipWith (· ^^^ ·) x y) = crc8 x ^^^ crc8 y) ∧
  (∀ n : Nat, crc8 (List.replicate n 0x00#8) = 0x00#8) ∧
  (∀ bytes : List Byte, crc8 (0x00#8 :: bytes) = crc8 bytes)

/-- A scratchpad that differs from a valid one in exactly one or exactly two bits is never valid (R118,
R204). -/
def Obligations.OneAndTwoBitErrorsCaught : Prop :=
  ∀ (sp : Vector Byte 9) (m n : Nat), scratchpadValid sp → m < 72 → n < 72 →
    ¬ scratchpadValid (flipBit sp m) ∧
    (m ≠ n → ¬ scratchpadValid (flipBit (flipBit sp m) n))

/-- Values the spec works out: the empty sequence and the known vector (R115), the check string, and the
scratchpads of R197 and R204. -/
def Obligations.CrcKnownValues : Prop :=
  crc8 [] = 0x00#8 ∧
  crc8 [0x50#8, 0x05#8, 0x4B#8, 0x46#8, 0x7F#8, 0xFF#8, 0x0C#8, 0x10#8] = 0x1C#8 ∧
  crc8 [0x31#8, 0x32#8, 0x33#8, 0x34#8, 0x35#8, 0x36#8, 0x37#8, 0x38#8, 0x39#8] = 0xA1#8 ∧
  crc8 (List.replicate 8 0x00#8) = 0x00#8 ∧ crc8 (List.replicate 8 0xFF#8) = 0xC9#8 ∧
  crc8 [0x50#8, 0x05#8, 0x4B#8, 0x46#8, 0x7F#8, 0xFF#8, 0x0C#8, 0x11#8] = 0x42#8

/-- R92, R141: `T_RAW` is little-endian, its value is two's complement, and the temperature is that value
over 16 exactly, from -2048 to 2047.9375. -/
def Obligations.TemperatureDecoded : Prop :=
  (∀ sp : Vector Byte 9, (tRaw sp).toNat = sp[1].toNat * 256 + sp[0].toNat) ∧
  (∀ raw : BitVec 16, sint16 raw = raw.toInt ∧ celsius raw * 16 = (raw.toInt : Rat) ∧
    -2048 ≤ celsius raw ∧ celsius raw ≤ 2047 + 15 / 16) ∧
  celsius 0x0550#16 = 85 ∧ celsius 0xFF6F#16 = -9 - 1 / 16 ∧ celsius 0xFFF7#16 = -9 / 16

/-! ## Whole operations -/

/-- R114: `CRCBYTE b` leaves `crc_byte` of the accumulator and `b`, answers with it, and touches no bit of
the operand but `b`'s eight. -/
def Obligations.CrcbyteComputes : Prop :=
  ∀ (s : State) (hi : BitVec 56) (b : Byte) (rest : List CmdWord),
    Ready s → s.cmds = cmdWord 0x09#8 (hi ++ b) :: rest →
    Reaches s { s with
      cmds := rest, op := 0x09#8, arg := hi ++ b, acc := crcByte s.acc b, bitcnt := 0#4,
      rsp := rspWord .ok 0#8 ((crcByte s.acc b).setWidth 16), rspValid := true, seq := .sRespond }

/-- The pseudo-operation `CRC8` computes `crc8` of its bytes, for any number of bytes, with one response a
command and no transport request (R98, R114). -/
def Obligations.CrcSequenceComputes : Prop :=
  ∀ (s : State) (bytes : List Byte) (rest : List CmdWord),
    Ready s → s.rspReady = true → s.cmds = assemble [.crc8 bytes] ++ rest →
    ∃ t : State, Reaches s t ∧ Ready t ∧ t.cmds = rest ∧ t.acc = crc8 bytes ∧
      t.trace = s.trace ∧ t.devlist = s.devlist ∧ t.sp = s.sp ∧
      t.delivered = s.delivered ++ (List.range (bytes.length + 1)).map fun k =>
        rspWord .ok 0#8 ((crc8 (bytes.take k)).setWidth 16)

/-- `SCAN` as a whole (R131, R165, R143): one request, `T_SCAN`; the list becomes what the transport
returned, or stays as it was when the answer fails or is longer than `MAX_DEV`. -/
def Obligations.ScanComputes : Prop :=
  ∀ (s : State) (x : BitVec 64) (rest : List CmdWord) (items : List Addr) (last : TansWord)
    (d : BitVec 64) (later : List (List TansWord)),
    Ready s → s.cmds = cmdWord 0x01#8 x :: rest →
    s.answers = (items.map itemBeat ++ [last]) :: later →
    ∃ trace : List PortEvent, requestsOf trace = requestsOf s.trace ++ [.scan] ∧
      (last = failBeat d → Reaches s { s with
        cmds := rest, answers := later, trace := trace, op := 0x01#8, arg := x,
        rsp := rspWord .transportFail (d.setWidth 8) 0#16, rspValid := true, seq := .sRespond }) ∧
      (last = doneBeat d → (∀ m, s.cfg.maxDev = some m → items.length ≤ m) →
        Reaches s { s with
          cmds := rest, answers := later, trace := trace, op := 0x01#8, arg := x, devlist := items,
          rsp := rspWord .ok 0#8 (BitVec.ofNat 16 items.length), rspValid := true,
          seq := .sRespond }) ∧
      (last = doneBeat d → ∀ m, s.cfg.maxDev = some m → m < items.length →
        Reaches s { s with
          cmds := rest, answers := later, trace := trace, op := 0x01#8, arg := x,
          rsp := rspWord .listOverflow 0#8 0#16, rspValid := true, seq := .sRespond })

/-- `CONVERT` as a whole (R133, R143): exactly one reset, select, write(0x44) for each listed address, in
list order, none for an empty list, and then `OK`; with a failure, exactly the requests up to and
including the failed one, and the code. -/
def Obligations.ConvertComputes : Prop :=
  ∀ (s : State) (x : BitVec 64) (rest : List CmdWord) (ds : List (BitVec 64))
    (later : List (List TansWord)),
    Ready s → s.cmds = cmdWord 0x02#8 x :: rest →
    (ds.length = 3 * s.devcnt → s.answers = ds.map doneAnswer ++ later →
      ∃ trace : List PortEvent,
        requestsOf trace = requestsOf s.trace ++ convertRequests s.devlist ∧
        Reaches s { s with
          cmds := rest, answers := later, trace := trace, op := 0x02#8, arg := x, devidx := s.devcnt,
          rsp := rspWord .ok 0#8 0#16, rspValid := true, seq := .sRespond }) ∧
    (∀ f : BitVec 64, ds.length < 3 * s.devcnt →
      s.answers = ds.map doneAnswer ++ [failBeat f] :: later →
      ∃ trace : List PortEvent,
        requestsOf trace =
          requestsOf s.trace ++ (convertRequests s.devlist).take (ds.length + 1) ∧
        Reaches s { s with
          cmds := rest, answers := later, trace := trace, op := 0x02#8, arg := x,
          devidx := ds.length / 3,
          rsp := rspWord .transportFail (f.setWidth 8) 0#16, rspValid := true, seq := .sRespond })

/-- `WAIT` as a whole (R135): after the accepting step the block waits `WAIT_TICKS` ticks and then
answers `OK`, with no bus activity; at every step before that it is still waiting. `WAIT_TICKS` is
`F_CLK_HZ * 750 / 1000`, rounded up (R7). -/
def Obligations.WaitRunsItsTicks : Prop :=
  (∀ c : Config, 750 * c.fClkHz ≤ 1000 * waitTicks c ∧ 1000 * waitTicks c < 750 * c.fClkHz + 1000) ∧
  (∀ (s : State) (x : BitVec 64) (rest : List CmdWord),
    Ready s → s.cmds = cmdWord 0x03#8 x :: rest →
    (∀ n, n ≤ waitTicks s.cfg →
      Host.Core.run Sys2Proof.core (n + 1) s = .next { s with
        cmds := rest, op := 0x03#8, arg := x, waitcnt := waitTicks s.cfg - n, seq := .sWait }) ∧
    Host.Core.run Sys2Proof.core (waitTicks s.cfg + 2) s = .next { s with
      cmds := rest, op := 0x03#8, arg := x, waitcnt := 0,
      rsp := rspWord .ok 0#8 0#16, rspValid := true, seq := .sRespond })

/-- `READ a` as a whole (R136 to R140, R143). When no request fails: twelve requests, the nine bytes in
`SP`, the CRC of the first eight in `ACC`, and `OK` with the temperature when that CRC is the ninth byte,
else `INVALID`, whatever its data bits. With a failure: exactly the requests up to and including the failed
one, the bytes that came before it in `SP`, no CRC computed, and the code. -/
def Obligations.ReadComputes : Prop :=
  ∀ (s : State) (a : Addr) (rest : List CmdWord), Ready s → s.cmds = cmdWord 0x04#8 a :: rest →
    (∀ (d0 d1 d2 : BitVec 64) (ds : Vector (BitVec 64) 9) (later : List (List TansWord))
      (sp : Vector Byte 9),
      s.answers =
        doneAnswer d0 :: doneAnswer d1 :: doneAnswer d2 :: (ds.toList.map doneAnswer ++ later) →
      sp = ds.map (fun d => d.setWidth 8) →
      ∃ (trace : List PortEvent) (data : BitVec 16),
        requestsOf trace = requestsOf s.trace ++ readRequests a ∧
        (scratchpadValid sp → Reaches s { s with
          cmds := rest, answers := later, trace := trace, op := 0x04#8, arg := a, sp := sp,
          bytecnt := 8#4, acc := crc8 (crcCovered sp), bitcnt := 0#4,
          rsp := rspWord .ok 0#8 (sp[1] ++ sp[0]), rspValid := true, seq := .sRespond }) ∧
        (¬ scratchpadValid sp → Reaches s { s with
          cmds := rest, answers := later, trace := trace, op := 0x04#8, arg := a, sp := sp,
          bytecnt := 8#4, acc := crc8 (crcCovered sp), bitcnt := 0#4, draws := s.draws + 1,
          rsp := rspWord .invalid 0#8 data, rspValid := true, seq := .sRespond })) ∧
    (∀ (ds : List (BitVec 64)) (f : BitVec 64) (later : List (List TansWord)), ds.length < 12 →
      s.answers = ds.map doneAnswer ++ [failBeat f] :: later →
      ∃ (trace : List PortEvent) (sp : Vector Byte 9),
        requestsOf trace = requestsOf s.trace ++ (readRequests a).take (ds.length + 1) ∧
        (∀ (k : Nat) (h : k < 9),
          sp[k] = if h : k + 3 < ds.length then ds[k + 3].setWidth 8 else s.sp[k]) ∧
        Reaches s { s with
          cmds := rest, answers := later, trace := trace, op := 0x04#8, arg := a, sp := sp,
          bytecnt := BitVec.ofNat 4 (ds.length - 3),
          rsp := rspWord .transportFail (f.setWidth 8) 0#16, rspValid := true, seq := .sRespond })

/-- R142: what the host reads from a `READ` depends on the transport's answers to its own requests and on
nothing else of the state, not even the address. -/
def Obligations.ReadsIndependent : Prop :=
  ∀ (s1 s2 : State) (a1 a2 : Addr) (rest1 rest2 : List CmdWord)
    (answers later1 later2 : List (List TansWord)),
    Ready s1 → Ready s2 →
    s1.cmds = cmdWord 0x04#8 a1 :: rest1 → s2.cmds = cmdWord 0x04#8 a2 :: rest2 →
    readAnswers answers → s1.answers = answers ++ later1 → s2.answers = answers ++ later2 →
    ∃ t1 t2 : State, Reaches s1 t1 ∧ Reaches s2 t2 ∧
      t1.seq = .sRespond ∧ t2.seq = .sRespond ∧
      t1.delivered = s1.delivered ∧ t2.delivered = s2.delivered ∧
      responseOf t1.rsp = responseOf t2.rsp ∧ responseOf t1.rsp ≠ none

/-! ## The whole machine -/

/-- Every step keeps the invariant, reset steps included. -/
def Obligations.StepKeepsInvariant : Prop :=
  ∀ s t : State, Inv s → step s = .next t → Inv t

/-- What the host and the transport do between two steps keeps it too: present other words, become ready
or not, assert or release `rst` (R71, R190; the model's form of the inputs: log 2). -/
def Obligations.InputsKeepInvariant : Prop :=
  ∀ (s : State) (cmds : List CmdWord) (tans : List TansWord) (answers : List (List TansWord))
    (abandoned : List Abandoned) (ready rst : Bool), Inv s →
    Inv { s with
      cmds := cmds, tans := tans, answers := answers, abandoned := abandoned, rspReady := ready,
      rst := rst }

/-- The invariant holds after reset. -/
def Obligations.ResetMeetsInvariant : Prop := Inv State.reset

/-- While the transport keeps its contract a good state always has a next one: no fault, no refusal, no
dead end (R160, R168). Where nothing is enabled that next state is the same state again, which is the
model's choice (DESIGN CHOICE, log 3). -/
def Obligations.NoStopUnderContract : Prop :=
  ∀ s : State, Inv s → transportKeepsContract s → ∃ t : State, step s = .next t

/-- R25: outside reset the list changes only by a `SCAN` that completes without failure, and then it is
the scan's whole result. -/
def Obligations.ListChangedOnlyByScan : Prop :=
  ∀ s t : State, s.rst = false → step s = .next t →
    t.devlist = s.devlist ∨
      (s.seq = .sScan ∧ ∃ (r : Request) (items : List Addr),
        s.port = .waiting r items ∧ t.devlist = items ∧ t.seq = .sRespond ∧
        t.rsp = rspWord .ok 0#8 (BitVec.ofNat 16 items.length))

/-- R21: outside reset `ACC` is written only by `CRCCLR`, by `CRCBYTE` and by the CRC phase of `READ`. -/
def Obligations.AccumulatorWriters : Prop :=
  ∀ s t : State, s.rst = false → step s = .next t → t.acc ≠ s.acc →
    (∃ (w : CmdWord) (rest : List CmdWord), s.seq = .sIdle ∧ s.cmds = w :: rest ∧
      (cmdOp w = 0x08#8 ∨ cmdOp w = 0x09#8)) ∨
    s.seq = .sCrcRun ∨ (s.seq = .sRdBytes ∧ 9#4 ≤ s.bytecnt) ∨ s.seq = .sRdCrc

/-- Each outcome has its cause (R160 to R165): a step that raises one is the step the rules name for it,
so `OK` comes only of an operation that ran to its end and with that operation's data, `INVALID` only of a
CRC that does not match, `TRANSPORT_FAIL` only of a `FAIL` beat and with its code, `ILLEGAL_OP` only of a
reserved op, `LIST_OVERFLOW` only of a scan that is too long; no other outcome exists. -/
def Obligations.OutcomesHaveTheirCauses : Prop :=
  ∀ s t : State, Inv s → step s = .next t → s.seq ≠ .sRespond → t.seq = .sRespond →
    rspStatus t.rsp ≤ 4#4 ∧
    (rspStatus t.rsp = 0#4 →
      (∃ (w : CmdWord) (rest : List CmdWord), s.seq = .sIdle ∧ s.port = .free ∧
        s.cmds = w :: rest ∧ cmdOp w = 0x08#8 ∧ t.acc = 0x00#8 ∧ t.rsp = rspWord .ok 0#8 0#16) ∨
      (s.seq = .sCrcRun ∧ s.port = .free ∧ s.bitcnt = 0#4 ∧
        t.rsp = rspWord .ok 0#8 (s.acc.setWidth 16)) ∨
      (s.seq = .sWait ∧ s.port = .free ∧ s.waitcnt = 0 ∧ t.rsp = rspWord .ok 0#8 0#16) ∨
      (s.seq = .sConvReset ∧ s.port = .free ∧ s.devidx = s.devcnt ∧
        t.rsp = rspWord .ok 0#8 0#16) ∨
      (s.seq = .sScan ∧ ∃ (items : List Addr) (d : BitVec 64), s.port = .waiting .scan items ∧
        s.tans.head? = some (doneBeat d) ∧ (∀ m, s.cfg.maxDev = some m → items.length ≤ m) ∧
        t.devlist = items ∧ t.rsp = rspWord .ok 0#8 (BitVec.ofNat 16 items.length)) ∨
      (s.seq = .sRdCheck ∧ s.port = .free ∧ s.acc = s.sp[8] ∧
        t.rsp = rspWord .ok 0#8 (s.sp[1] ++ s.sp[0]))) ∧
    (rspStatus t.rsp = 1#4 → s.seq = .sRdCheck ∧ s.port = .free ∧ s.acc ≠ s.sp[8]) ∧
    (rspStatus t.rsp = 2#4 → ∃ (r : Request) (items : List Addr) (d : BitVec 64),
      s.port = .waiting r items ∧ s.tans.head? = some (failBeat d) ∧
        rspInfo t.rsp = d.setWidth 8 ∧ rspData t.rsp = 0#16) ∧
    (rspStatus t.rsp = 3#4 → ∃ (w : CmdWord) (rest : List CmdWord),
      s.seq = .sIdle ∧ s.cmds = w :: rest ∧ opAssigned (cmdOp w) = false) ∧
    (rspStatus t.rsp = 4#4 → ∃ (items : List Addr) (m : Nat),
      s.port = .waiting .scan items ∧ s.cfg.maxDev = some m ∧ m < items.length) ∧
    (s.seq = .sRdCheck → s.acc = s.sp[8] →
      rspStatus t.rsp = 0#4 ∧ rspData t.rsp = s.sp[1] ++ s.sp[0])

/-! ## Beats that answer no request of the engine -/

/-- R88, R94 (U9, "two final beats"): after the `DONE` or `FAIL` that ends an answer, one more beat is
refused, whatever operation goes on. That it is the next step that refuses it is the model's choice (DESIGN
CHOICE, log 14): R94 and U9 fix no such time. -/
def Obligations.SecondFinalBeatRefused : Prop :=
  ∀ (s t : State) (r : Request) (items : List Addr) (w v : TansWord) (rest : List TansWord),
    s.rst = false → noLateBeat s → s.port = .waiting r items → s.tans = w :: v :: rest →
    tansKind w ≠ 2#2 → tansKind v ≠ 3#2 → step s = .next t →
      step t = .refused .strayBeat

/-- R192: the answer to a request that a reset abandoned is ignored, if it comes, and so is a part of it
whose last beat has not come. The beats, the oldest request's first, go by one after the other and leave
every other part of the state as it was, the answers to later requests among them. The reset step itself
takes the beats of that answer off the port, with the request, so that none of them stands there for a later
request; and what comes of the answer after the reset is ignored in the same way. That a late beat is tied to
its request, and is ignored in a step of its own and recorded as `late`, is the model's choice (DESIGN CHOICE,
log 13). -/
def Obligations.AbandonedAnswerIgnored : Prop :=
  ∀ (r : Request) (items : List Addr) (last beats : List TansWord) (left : List Abandoned),
    items = [] ∨ r = .scan →
    (last = [] ∨ ∃ d, last = [doneBeat d] ∨ last = [failBeat d]) →
    beats = items.map itemBeat ++ last →
    left = (if last = [] then [⟨r, []⟩] else []) →
    (∀ (s : State) (before rest : List Abandoned), s.rst = false → (∀ a ∈ before, a.beats = []) →
      s.abandoned = before ++ ⟨r, beats⟩ :: rest →
        Reaches s { s with
          abandoned := before ++ left ++ rest, trace := s.trace ++ beats.map .late }) ∧
    (∀ (s : State) (kept : List Addr), s.rst = true → s.port = .waiting r kept →
      ∃ t : State, step s = .next t ∧ t.port = .free ∧ t.tans = [] ∧ t.answers = s.answers ∧
        t.trace = s.trace ∧ t.abandoned = s.abandoned ++ [⟨r, s.tans⟩] ∧
        ∀ more : List TansWord, noLateBeat s → s.tans ++ more = beats →
          Reaches { t with rst := false, abandoned := s.abandoned ++ [⟨r, s.tans ++ more⟩] }
            { t with
              rst := false
              abandoned := s.abandoned ++ left
              trace := t.trace ++ beats.map .late })

/-- R192, one beat: a late beat that R88 allows in the answer to the abandoned request, whether the answer
ends with it or not, changes nothing but what is left to come of that answer and the trace. That it takes a
step of its own is the model's choice (DESIGN CHOICE, log 13). -/
def Obligations.LateBeatIgnored : Prop :=
  ∀ (s : State) (before rest : List Abandoned) (r : Request) (w : TansWord) (ws : List TansWord),
    s.rst = false → (∀ a ∈ before, a.beats = []) →
    s.abandoned = before ++ ⟨r, w :: ws⟩ :: rest → answerAllowed r (w :: ws) →
      step s = .next { s with
        abandoned := before ++ (if tansKind w = 2#2 then ⟨r, ws⟩ :: rest else rest)
        trace := s.trace ++ [.late w] }
end

