-- ==== Sys2Proof/Laws/Crc8.lean ====
section
/-! SUPPORT. The laws of the CRC iteration that the statements about `crc8` rest on (40_crc8.md). -/

namespace Sys2Proof.Machine

/-- The iteration as a shift and a XOR that depends on the low bit alone. -/
theorem crcBit_eq (acc : Byte) :
    crcBit acc = (acc >>> 1) ^^^ (if acc.getLsbD 0 then Config.crcPolyReflected else 0#8) := by
  unfold crcBit
  split <;> simp

/-- The iteration is linear over XOR (R111, R118). -/
theorem crcBit_xor (a b : Byte) : crcBit (a ^^^ b) = crcBit a ^^^ crcBit b := by
  have cancel : ∀ x y p : Byte, (x ^^^ p) ^^^ (y ^^^ p) = x ^^^ y := by
    intro x y p
    rw [BitVec.xor_assoc, BitVec.xor_comm y p, ← BitVec.xor_assoc p p y]
    simp
  simp only [crcBit_eq, BitVec.getLsbD_xor, BitVec.ushiftRight_xor_distrib]
  cases a.getLsbD 0 <;> cases b.getLsbD 0 <;> simp [cancel] <;> ac_rfl

@[simp] theorem crcBit_zero : crcBit 0#8 = 0#8 := by decide

theorem crcBits_xor (n : Nat) (a b : Byte) : crcBits n (a ^^^ b) = crcBits n a ^^^ crcBits n b := by
  induction n generalizing a b with
  | zero => rfl
  | succ n ih => simp [crcBits, crcBit_xor, ih]

@[simp] theorem crcBits_zero (n : Nat) : crcBits n 0#8 = 0#8 := by
  induction n with
  | zero => rfl
  | succ n ih => simp [crcBits, ih]

/-- The bit step taken with `n + 1` iterations to do leaves `n` to do. -/
theorem crcBits_succ (n : Nat) (a : Byte) : crcBits (n + 1) a = crcBits n (crcBit a) := rfl

@[simp] theorem crc8_nil : crc8 [] = 0#8 := rfl

theorem crc8_append (s : List Byte) (b : Byte) : crc8 (s ++ [b]) = crcByte (crc8 s) b := by
  simp [crc8]

end Sys2Proof.Machine
end

