-- ==== Sys2Proof/Laws/Decode.lean ====
section
/-! SUPPORT. The fields of a word read back, and every word rebuilt from its fields. -/

namespace Sys2Proof

@[simp] theorem cmdOp_cmdWord (op : Byte) (arg : BitVec 64) : cmdOp (cmdWord op arg) = op :=
  BitVec.extractLsb'_append_eq_left

@[simp] theorem cmdArg_cmdWord (op : Byte) (arg : BitVec 64) : cmdArg (cmdWord op arg) = arg :=
  BitVec.extractLsb'_append_eq_right

theorem cmdWord_fields (w : CmdWord) : cmdWord (cmdOp w) (cmdArg w) = w :=
  (BitVec.extractLsb'_append_extractLsb'_eq_extractLsb' (x := w) (start₁ := 0) (len₁ := 64)
    (start₂ := 64) (len₂ := 8) rfl).trans BitVec.extractLsb'_eq_self

@[simp] theorem treqPrim_treqWord (p : BitVec 3) (t : BitVec 64) : treqPrim (treqWord p t) = p :=
  BitVec.extractLsb'_append_eq_left

@[simp] theorem treqTarg_treqWord (p : BitVec 3) (t : BitVec 64) : treqTarg (treqWord p t) = t :=
  BitVec.extractLsb'_append_eq_right

theorem treqWord_fields (w : TreqWord) : treqWord (treqPrim w) (treqTarg w) = w :=
  (BitVec.extractLsb'_append_extractLsb'_eq_extractLsb' (x := w) (start₁ := 0) (len₁ := 64)
    (start₂ := 64) (len₂ := 3) rfl).trans BitVec.extractLsb'_eq_self

@[simp] theorem tansKind_tansWord (k : BitVec 2) (t : BitVec 64) : tansKind (tansWord k t) = k :=
  BitVec.extractLsb'_append_eq_left

@[simp] theorem tansData_tansWord (k : BitVec 2) (t : BitVec 64) : tansData (tansWord k t) = t :=
  BitVec.extractLsb'_append_eq_right

theorem tansWord_fields (w : TansWord) : tansWord (tansKind w) (tansData w) = w :=
  (BitVec.extractLsb'_append_extractLsb'_eq_extractLsb' (x := w) (start₁ := 0) (len₁ := 64)
    (start₂ := 64) (len₂ := 2) rfl).trans BitVec.extractLsb'_eq_self

@[simp] theorem rspData_rspWord (st : Status) (i : Byte) (d : BitVec 16) :
    rspData (rspWord st i d) = d :=
  BitVec.extractLsb'_append_eq_right

@[simp] theorem rspStatus_rspWord (st : Status) (i : Byte) (d : BitVec 16) :
    rspStatus (rspWord st i d) = st.code := by
  apply BitVec.eq_of_getLsbD_eq
  intro k h
  have h1 : ¬ 24 + k < 16 := by omega
  have h2 : ¬ 24 + k - 16 < 8 := by omega
  have h3 : 24 + k - 16 - 8 = k := by omega
  simp only [rspStatus, rspWord, BitVec.getLsbD_extractLsb', BitVec.getLsbD_append]
  simp [h, h1, h2, h3]

@[simp] theorem rspInfo_rspWord (st : Status) (i : Byte) (d : BitVec 16) :
    rspInfo (rspWord st i d) = i := by
  apply BitVec.eq_of_getLsbD_eq
  intro k h
  have h1 : ¬ 16 + k < 16 := by omega
  simp only [rspInfo, rspWord, BitVec.getLsbD_extractLsb', BitVec.getLsbD_append]
  simp [h]

/-- A response word is rebuilt from its fields (R84). -/
theorem rspWord_fields (w : RspWord) (st : Status) (h : rspStatus w = st.code) :
    rspWord st (rspInfo w) (rspData w) = w := by
  have h1 : rspStatus w ++ rspInfo w = w.extractLsb' 16 12 :=
    BitVec.extractLsb'_append_extractLsb'_eq_extractLsb' (x := w) (start₁ := 16) (len₁ := 8)
      (start₂ := 24) (len₂ := 4) rfl
  have h2 : w.extractLsb' 16 12 ++ rspData w = w :=
    (BitVec.extractLsb'_append_extractLsb'_eq_extractLsb' (x := w) (start₁ := 0) (len₁ := 16)
      (start₂ := 16) (len₂ := 12) rfl).trans BitVec.extractLsb'_eq_self
  simp only [rspWord, ← h]
  rw [h1]
  exact h2

/-- A response word decodes to the row of its status, with its fields (R84, R85). -/
theorem decodeRsp_rspWord (st : Status) (i : Byte) (d : BitVec 16) :
    decodeRsp (rspWord st i d) =
      .ok (match st with
        | .ok => .rspOk i d
        | .invalid => .rspInvalid i d
        | .transportFail => .rspTransportFail i d
        | .illegalOp => .rspIllegalOp i d
        | .listOverflow => .rspListOverflow i d) := by
  cases st <;> simp [decodeRsp, Status.code]

/-- The upper operand bits and the byte of a `CRCBYTE` word (R95). -/
theorem cmdWord_hi (op : Byte) (hi : BitVec 56) (b : Byte) :
    (cmdWord op (hi ++ b)).extractLsb' 8 56 = hi := by
  apply BitVec.eq_of_getLsbD_eq
  intro i h
  have h2 : 8 + i < 64 := by omega
  simp only [cmdWord, BitVec.getLsbD_extractLsb', BitVec.getLsbD_append]
  simp [h, h2]

theorem cmdWord_lo (op : Byte) (hi : BitVec 56) (b : Byte) :
    (cmdWord op (hi ++ b)).extractLsb' 0 8 = b := by
  apply BitVec.eq_of_getLsbD_eq
  intro i h
  have h2 : i < 64 := by omega
  simp only [cmdWord, BitVec.getLsbD_extractLsb', BitVec.getLsbD_append]
  simp [h, h2]

@[simp] theorem decodeTans_doneBeat (t : BitVec 64) : decodeTans (doneBeat t) = .ok (.tansDone t) := by
  simp [decodeTans, doneBeat]

@[simp] theorem decodeTans_failBeat (t : BitVec 64) : decodeTans (failBeat t) = .ok (.tansFail t) := by
  simp [decodeTans, failBeat]

@[simp] theorem decodeTans_itemBeat (a : Addr) : decodeTans (itemBeat a) = .ok (.tansItem a) := by
  simp [decodeTans, itemBeat]

end Sys2Proof
end

