-- ==== Sys2Proof/Laws/State.lean ====
section
/-! SUPPORT. For every shared update of the state, what each field is after it. -/

namespace Sys2Proof.Machine

variable (s : State)

@[simp] theorem latch_acc (o : Byte) (a : BitVec 64) : (latch o a s).acc = s.acc := rfl
@[simp] theorem latch_bitcnt (o : Byte) (a : BitVec 64) : (latch o a s).bitcnt = s.bitcnt := rfl
@[simp] theorem latch_sp (o : Byte) (a : BitVec 64) : (latch o a s).sp = s.sp := rfl
@[simp] theorem latch_bytecnt (o : Byte) (a : BitVec 64) : (latch o a s).bytecnt = s.bytecnt := rfl
@[simp] theorem latch_devlist (o : Byte) (a : BitVec 64) : (latch o a s).devlist = s.devlist := rfl
@[simp] theorem latch_devidx (o : Byte) (a : BitVec 64) : (latch o a s).devidx = s.devidx := rfl
@[simp] theorem latch_seq (o : Byte) (a : BitVec 64) : (latch o a s).seq = s.seq := rfl
@[simp] theorem latch_op (o : Byte) (a : BitVec 64) : (latch o a s).op = o := rfl
@[simp] theorem latch_arg (o : Byte) (a : BitVec 64) : (latch o a s).arg = a := rfl
@[simp] theorem latch_waitcnt (o : Byte) (a : BitVec 64) : (latch o a s).waitcnt = s.waitcnt := rfl
@[simp] theorem latch_rspValid (o : Byte) (a : BitVec 64) : (latch o a s).rspValid = s.rspValid := rfl
@[simp] theorem latch_rsp (o : Byte) (a : BitVec 64) : (latch o a s).rsp = s.rsp := rfl
@[simp] theorem latch_port (o : Byte) (a : BitVec 64) : (latch o a s).port = s.port := rfl
@[simp] theorem latch_cmds (o : Byte) (a : BitVec 64) : (latch o a s).cmds = s.cmds := rfl
@[simp] theorem latch_tans (o : Byte) (a : BitVec 64) : (latch o a s).tans = s.tans := rfl
@[simp] theorem latch_answers (o : Byte) (a : BitVec 64) : (latch o a s).answers = s.answers := rfl
@[simp] theorem latch_abandoned (o : Byte) (a : BitVec 64) : (latch o a s).abandoned = s.abandoned := rfl
@[simp] theorem latch_rspReady (o : Byte) (a : BitVec 64) : (latch o a s).rspReady = s.rspReady := rfl
@[simp] theorem latch_rst (o : Byte) (a : BitVec 64) : (latch o a s).rst = s.rst := rfl
@[simp] theorem latch_trace (o : Byte) (a : BitVec 64) : (latch o a s).trace = s.trace := rfl
@[simp] theorem latch_delivered (o : Byte) (a : BitVec 64) : (latch o a s).delivered = s.delivered := rfl
@[simp] theorem latch_draws (o : Byte) (a : BitVec 64) : (latch o a s).draws = s.draws := rfl
@[simp] theorem latch_cfg (o : Byte) (a : BitVec 64) : (latch o a s).cfg = s.cfg := rfl

@[simp] theorem respond_acc (st : Status) (i : Byte) (d : BitVec 16) : (respond st i d s).acc = s.acc := rfl
@[simp] theorem respond_bitcnt (st : Status) (i : Byte) (d : BitVec 16) : (respond st i d s).bitcnt = s.bitcnt := rfl
@[simp] theorem respond_sp (st : Status) (i : Byte) (d : BitVec 16) : (respond st i d s).sp = s.sp := rfl
@[simp] theorem respond_bytecnt (st : Status) (i : Byte) (d : BitVec 16) : (respond st i d s).bytecnt = s.bytecnt := rfl
@[simp] theorem respond_devlist (st : Status) (i : Byte) (d : BitVec 16) : (respond st i d s).devlist = s.devlist := rfl
@[simp] theorem respond_devidx (st : Status) (i : Byte) (d : BitVec 16) : (respond st i d s).devidx = s.devidx := rfl
@[simp] theorem respond_seq (st : Status) (i : Byte) (d : BitVec 16) : (respond st i d s).seq = .sRespond := rfl
@[simp] theorem respond_op (st : Status) (i : Byte) (d : BitVec 16) : (respond st i d s).op = s.op := rfl
@[simp] theorem respond_arg (st : Status) (i : Byte) (d : BitVec 16) : (respond st i d s).arg = s.arg := rfl
@[simp] theorem respond_waitcnt (st : Status) (i : Byte) (d : BitVec 16) : (respond st i d s).waitcnt = s.waitcnt := rfl
@[simp] theorem respond_rspValid (st : Status) (i : Byte) (d : BitVec 16) : (respond st i d s).rspValid = true := rfl
@[simp] theorem respond_rsp (st : Status) (i : Byte) (d : BitVec 16) : (respond st i d s).rsp = rspWord st i d := rfl
@[simp] theorem respond_port (st : Status) (i : Byte) (d : BitVec 16) : (respond st i d s).port = s.port := rfl
@[simp] theorem respond_cmds (st : Status) (i : Byte) (d : BitVec 16) : (respond st i d s).cmds = s.cmds := rfl
@[simp] theorem respond_tans (st : Status) (i : Byte) (d : BitVec 16) : (respond st i d s).tans = s.tans := rfl
@[simp] theorem respond_answers (st : Status) (i : Byte) (d : BitVec 16) : (respond st i d s).answers = s.answers := rfl
@[simp] theorem respond_abandoned (st : Status) (i : Byte) (d : BitVec 16) : (respond st i d s).abandoned = s.abandoned := rfl
@[simp] theorem respond_rspReady (st : Status) (i : Byte) (d : BitVec 16) : (respond st i d s).rspReady = s.rspReady := rfl
@[simp] theorem respond_rst (st : Status) (i : Byte) (d : BitVec 16) : (respond st i d s).rst = s.rst := rfl
@[simp] theorem respond_trace (st : Status) (i : Byte) (d : BitVec 16) : (respond st i d s).trace = s.trace := rfl
@[simp] theorem respond_delivered (st : Status) (i : Byte) (d : BitVec 16) : (respond st i d s).delivered = s.delivered := rfl
@[simp] theorem respond_draws (st : Status) (i : Byte) (d : BitVec 16) : (respond st i d s).draws = s.draws := rfl
@[simp] theorem respond_cfg (st : Status) (i : Byte) (d : BitVec 16) : (respond st i d s).cfg = s.cfg := rfl

@[simp] theorem respondInvalid_acc : (respondInvalid s).acc = s.acc := rfl
@[simp] theorem respondInvalid_bitcnt : (respondInvalid s).bitcnt = s.bitcnt := rfl
@[simp] theorem respondInvalid_sp : (respondInvalid s).sp = s.sp := rfl
@[simp] theorem respondInvalid_bytecnt : (respondInvalid s).bytecnt = s.bytecnt := rfl
@[simp] theorem respondInvalid_devlist : (respondInvalid s).devlist = s.devlist := rfl
@[simp] theorem respondInvalid_devidx : (respondInvalid s).devidx = s.devidx := rfl
@[simp] theorem respondInvalid_seq : (respondInvalid s).seq = .sRespond := rfl
@[simp] theorem respondInvalid_op : (respondInvalid s).op = s.op := rfl
@[simp] theorem respondInvalid_arg : (respondInvalid s).arg = s.arg := rfl
@[simp] theorem respondInvalid_waitcnt : (respondInvalid s).waitcnt = s.waitcnt := rfl
@[simp] theorem respondInvalid_rspValid : (respondInvalid s).rspValid = true := rfl
@[simp] theorem respondInvalid_rsp : (respondInvalid s).rsp = rspWord .invalid 0#8 (Config.freeData s.draws) := rfl
@[simp] theorem respondInvalid_port : (respondInvalid s).port = s.port := rfl
@[simp] theorem respondInvalid_cmds : (respondInvalid s).cmds = s.cmds := rfl
@[simp] theorem respondInvalid_tans : (respondInvalid s).tans = s.tans := rfl
@[simp] theorem respondInvalid_answers : (respondInvalid s).answers = s.answers := rfl
@[simp] theorem respondInvalid_abandoned : (respondInvalid s).abandoned = s.abandoned := rfl
@[simp] theorem respondInvalid_rspReady : (respondInvalid s).rspReady = s.rspReady := rfl
@[simp] theorem respondInvalid_rst : (respondInvalid s).rst = s.rst := rfl
@[simp] theorem respondInvalid_trace : (respondInvalid s).trace = s.trace := rfl
@[simp] theorem respondInvalid_delivered : (respondInvalid s).delivered = s.delivered := rfl
@[simp] theorem respondInvalid_draws : (respondInvalid s).draws = s.draws + 1 := rfl
@[simp] theorem respondInvalid_cfg : (respondInvalid s).cfg = s.cfg := rfl

@[simp] theorem abortWith_acc (st : Status) (i : Byte) : (abortWith st i s).acc = s.acc := rfl
@[simp] theorem abortWith_bitcnt (st : Status) (i : Byte) : (abortWith st i s).bitcnt = s.bitcnt := rfl
@[simp] theorem abortWith_sp (st : Status) (i : Byte) : (abortWith st i s).sp = s.sp := rfl
@[simp] theorem abortWith_bytecnt (st : Status) (i : Byte) : (abortWith st i s).bytecnt = s.bytecnt := rfl
@[simp] theorem abortWith_devlist (st : Status) (i : Byte) : (abortWith st i s).devlist = s.devlist := rfl
@[simp] theorem abortWith_devidx (st : Status) (i : Byte) : (abortWith st i s).devidx = s.devidx := rfl
@[simp] theorem abortWith_seq (st : Status) (i : Byte) : (abortWith st i s).seq = .sRespond := rfl
@[simp] theorem abortWith_op (st : Status) (i : Byte) : (abortWith st i s).op = s.op := rfl
@[simp] theorem abortWith_arg (st : Status) (i : Byte) : (abortWith st i s).arg = s.arg := rfl
@[simp] theorem abortWith_waitcnt (st : Status) (i : Byte) : (abortWith st i s).waitcnt = s.waitcnt := rfl
@[simp] theorem abortWith_rspValid (st : Status) (i : Byte) : (abortWith st i s).rspValid = true := rfl
@[simp] theorem abortWith_rsp (st : Status) (i : Byte) : (abortWith st i s).rsp = rspWord st i 0#16 := rfl
@[simp] theorem abortWith_port (st : Status) (i : Byte) : (abortWith st i s).port = .free := rfl
@[simp] theorem abortWith_cmds (st : Status) (i : Byte) : (abortWith st i s).cmds = s.cmds := rfl
@[simp] theorem abortWith_tans (st : Status) (i : Byte) : (abortWith st i s).tans = s.tans := rfl
@[simp] theorem abortWith_answers (st : Status) (i : Byte) : (abortWith st i s).answers = s.answers := rfl
@[simp] theorem abortWith_abandoned (st : Status) (i : Byte) : (abortWith st i s).abandoned = s.abandoned := rfl
@[simp] theorem abortWith_rspReady (st : Status) (i : Byte) : (abortWith st i s).rspReady = s.rspReady := rfl
@[simp] theorem abortWith_rst (st : Status) (i : Byte) : (abortWith st i s).rst = s.rst := rfl
@[simp] theorem abortWith_trace (st : Status) (i : Byte) : (abortWith st i s).trace = s.trace := rfl
@[simp] theorem abortWith_delivered (st : Status) (i : Byte) : (abortWith st i s).delivered = s.delivered := rfl
@[simp] theorem abortWith_draws (st : Status) (i : Byte) : (abortWith st i s).draws = s.draws := rfl
@[simp] theorem abortWith_cfg (st : Status) (i : Byte) : (abortWith st i s).cfg = s.cfg := rfl

@[simp] theorem deliver_acc : (deliver s).acc = s.acc := rfl
@[simp] theorem deliver_bitcnt : (deliver s).bitcnt = s.bitcnt := rfl
@[simp] theorem deliver_sp : (deliver s).sp = s.sp := rfl
@[simp] theorem deliver_bytecnt : (deliver s).bytecnt = s.bytecnt := rfl
@[simp] theorem deliver_devlist : (deliver s).devlist = s.devlist := rfl
@[simp] theorem deliver_devidx : (deliver s).devidx = s.devidx := rfl
@[simp] theorem deliver_seq : (deliver s).seq = .sIdle := rfl
@[simp] theorem deliver_op : (deliver s).op = s.op := rfl
@[simp] theorem deliver_arg : (deliver s).arg = s.arg := rfl
@[simp] theorem deliver_waitcnt : (deliver s).waitcnt = s.waitcnt := rfl
@[simp] theorem deliver_rspValid : (deliver s).rspValid = false := rfl
@[simp] theorem deliver_rsp : (deliver s).rsp = s.rsp := rfl
@[simp] theorem deliver_port : (deliver s).port = s.port := rfl
@[simp] theorem deliver_cmds : (deliver s).cmds = s.cmds := rfl
@[simp] theorem deliver_tans : (deliver s).tans = s.tans := rfl
@[simp] theorem deliver_answers : (deliver s).answers = s.answers := rfl
@[simp] theorem deliver_abandoned : (deliver s).abandoned = s.abandoned := rfl
@[simp] theorem deliver_rspReady : (deliver s).rspReady = s.rspReady := rfl
@[simp] theorem deliver_rst : (deliver s).rst = s.rst := rfl
@[simp] theorem deliver_trace : (deliver s).trace = s.trace := rfl
@[simp] theorem deliver_delivered : (deliver s).delivered = s.delivered ++ [s.rsp] := rfl
@[simp] theorem deliver_draws : (deliver s).draws = s.draws := rfl
@[simp] theorem deliver_cfg : (deliver s).cfg = s.cfg := rfl

@[simp] theorem recordBeat_acc (w : TansWord) : (recordBeat w s).acc = s.acc := rfl
@[simp] theorem recordBeat_bitcnt (w : TansWord) : (recordBeat w s).bitcnt = s.bitcnt := rfl
@[simp] theorem recordBeat_sp (w : TansWord) : (recordBeat w s).sp = s.sp := rfl
@[simp] theorem recordBeat_bytecnt (w : TansWord) : (recordBeat w s).bytecnt = s.bytecnt := rfl
@[simp] theorem recordBeat_devlist (w : TansWord) : (recordBeat w s).devlist = s.devlist := rfl
@[simp] theorem recordBeat_devidx (w : TansWord) : (recordBeat w s).devidx = s.devidx := rfl
@[simp] theorem recordBeat_seq (w : TansWord) : (recordBeat w s).seq = s.seq := rfl
@[simp] theorem recordBeat_op (w : TansWord) : (recordBeat w s).op = s.op := rfl
@[simp] theorem recordBeat_arg (w : TansWord) : (recordBeat w s).arg = s.arg := rfl
@[simp] theorem recordBeat_waitcnt (w : TansWord) : (recordBeat w s).waitcnt = s.waitcnt := rfl
@[simp] theorem recordBeat_rspValid (w : TansWord) : (recordBeat w s).rspValid = s.rspValid := rfl
@[simp] theorem recordBeat_rsp (w : TansWord) : (recordBeat w s).rsp = s.rsp := rfl
@[simp] theorem recordBeat_port (w : TansWord) : (recordBeat w s).port = s.port := rfl
@[simp] theorem recordBeat_cmds (w : TansWord) : (recordBeat w s).cmds = s.cmds := rfl
@[simp] theorem recordBeat_tans (w : TansWord) : (recordBeat w s).tans = s.tans := rfl
@[simp] theorem recordBeat_answers (w : TansWord) : (recordBeat w s).answers = s.answers := rfl
@[simp] theorem recordBeat_abandoned (w : TansWord) : (recordBeat w s).abandoned = s.abandoned := rfl
@[simp] theorem recordBeat_rspReady (w : TansWord) : (recordBeat w s).rspReady = s.rspReady := rfl
@[simp] theorem recordBeat_rst (w : TansWord) : (recordBeat w s).rst = s.rst := rfl
@[simp] theorem recordBeat_trace (w : TansWord) : (recordBeat w s).trace = s.trace ++ [.ans w] := rfl
@[simp] theorem recordBeat_delivered (w : TansWord) : (recordBeat w s).delivered = s.delivered := rfl
@[simp] theorem recordBeat_draws (w : TansWord) : (recordBeat w s).draws = s.draws := rfl
@[simp] theorem recordBeat_cfg (w : TansWord) : (recordBeat w s).cfg = s.cfg := rfl

@[simp] theorem closeRequest_acc : (closeRequest s).acc = s.acc := rfl
@[simp] theorem closeRequest_bitcnt : (closeRequest s).bitcnt = s.bitcnt := rfl
@[simp] theorem closeRequest_sp : (closeRequest s).sp = s.sp := rfl
@[simp] theorem closeRequest_bytecnt : (closeRequest s).bytecnt = s.bytecnt := rfl
@[simp] theorem closeRequest_devlist : (closeRequest s).devlist = s.devlist := rfl
@[simp] theorem closeRequest_devidx : (closeRequest s).devidx = s.devidx := rfl
@[simp] theorem closeRequest_seq : (closeRequest s).seq = s.seq := rfl
@[simp] theorem closeRequest_op : (closeRequest s).op = s.op := rfl
@[simp] theorem closeRequest_arg : (closeRequest s).arg = s.arg := rfl
@[simp] theorem closeRequest_waitcnt : (closeRequest s).waitcnt = s.waitcnt := rfl
@[simp] theorem closeRequest_rspValid : (closeRequest s).rspValid = s.rspValid := rfl
@[simp] theorem closeRequest_rsp : (closeRequest s).rsp = s.rsp := rfl
@[simp] theorem closeRequest_port : (closeRequest s).port = .free := rfl
@[simp] theorem closeRequest_cmds : (closeRequest s).cmds = s.cmds := rfl
@[simp] theorem closeRequest_tans : (closeRequest s).tans = s.tans := rfl
@[simp] theorem closeRequest_answers : (closeRequest s).answers = s.answers := rfl
@[simp] theorem closeRequest_abandoned : (closeRequest s).abandoned = s.abandoned := rfl
@[simp] theorem closeRequest_rspReady : (closeRequest s).rspReady = s.rspReady := rfl
@[simp] theorem closeRequest_rst : (closeRequest s).rst = s.rst := rfl
@[simp] theorem closeRequest_trace : (closeRequest s).trace = s.trace := rfl
@[simp] theorem closeRequest_delivered : (closeRequest s).delivered = s.delivered := rfl
@[simp] theorem closeRequest_draws : (closeRequest s).draws = s.draws := rfl
@[simp] theorem closeRequest_cfg : (closeRequest s).cfg = s.cfg := rfl

@[simp] theorem loadCrcByte_acc (b : Byte) : (loadCrcByte b s).acc = s.acc ^^^ b := rfl
@[simp] theorem loadCrcByte_bitcnt (b : Byte) : (loadCrcByte b s).bitcnt = 8#4 := rfl
@[simp] theorem loadCrcByte_sp (b : Byte) : (loadCrcByte b s).sp = s.sp := rfl
@[simp] theorem loadCrcByte_bytecnt (b : Byte) : (loadCrcByte b s).bytecnt = s.bytecnt := rfl
@[simp] theorem loadCrcByte_devlist (b : Byte) : (loadCrcByte b s).devlist = s.devlist := rfl
@[simp] theorem loadCrcByte_devidx (b : Byte) : (loadCrcByte b s).devidx = s.devidx := rfl
@[simp] theorem loadCrcByte_seq (b : Byte) : (loadCrcByte b s).seq = s.seq := rfl
@[simp] theorem loadCrcByte_op (b : Byte) : (loadCrcByte b s).op = s.op := rfl
@[simp] theorem loadCrcByte_arg (b : Byte) : (loadCrcByte b s).arg = s.arg := rfl
@[simp] theorem loadCrcByte_waitcnt (b : Byte) : (loadCrcByte b s).waitcnt = s.waitcnt := rfl
@[simp] theorem loadCrcByte_rspValid (b : Byte) : (loadCrcByte b s).rspValid = s.rspValid := rfl
@[simp] theorem loadCrcByte_rsp (b : Byte) : (loadCrcByte b s).rsp = s.rsp := rfl
@[simp] theorem loadCrcByte_port (b : Byte) : (loadCrcByte b s).port = s.port := rfl
@[simp] theorem loadCrcByte_cmds (b : Byte) : (loadCrcByte b s).cmds = s.cmds := rfl
@[simp] theorem loadCrcByte_tans (b : Byte) : (loadCrcByte b s).tans = s.tans := rfl
@[simp] theorem loadCrcByte_answers (b : Byte) : (loadCrcByte b s).answers = s.answers := rfl
@[simp] theorem loadCrcByte_abandoned (b : Byte) : (loadCrcByte b s).abandoned = s.abandoned := rfl
@[simp] theorem loadCrcByte_rspReady (b : Byte) : (loadCrcByte b s).rspReady = s.rspReady := rfl
@[simp] theorem loadCrcByte_rst (b : Byte) : (loadCrcByte b s).rst = s.rst := rfl
@[simp] theorem loadCrcByte_trace (b : Byte) : (loadCrcByte b s).trace = s.trace := rfl
@[simp] theorem loadCrcByte_delivered (b : Byte) : (loadCrcByte b s).delivered = s.delivered := rfl
@[simp] theorem loadCrcByte_draws (b : Byte) : (loadCrcByte b s).draws = s.draws := rfl
@[simp] theorem loadCrcByte_cfg (b : Byte) : (loadCrcByte b s).cfg = s.cfg := rfl

@[simp] theorem crcBitStep_acc : (crcBitStep s).acc = crcBit s.acc := rfl
@[simp] theorem crcBitStep_bitcnt : (crcBitStep s).bitcnt = s.bitcnt - 1#4 := rfl
@[simp] theorem crcBitStep_sp : (crcBitStep s).sp = s.sp := rfl
@[simp] theorem crcBitStep_bytecnt : (crcBitStep s).bytecnt = s.bytecnt := rfl
@[simp] theorem crcBitStep_devlist : (crcBitStep s).devlist = s.devlist := rfl
@[simp] theorem crcBitStep_devidx : (crcBitStep s).devidx = s.devidx := rfl
@[simp] theorem crcBitStep_seq : (crcBitStep s).seq = s.seq := rfl
@[simp] theorem crcBitStep_op : (crcBitStep s).op = s.op := rfl
@[simp] theorem crcBitStep_arg : (crcBitStep s).arg = s.arg := rfl
@[simp] theorem crcBitStep_waitcnt : (crcBitStep s).waitcnt = s.waitcnt := rfl
@[simp] theorem crcBitStep_rspValid : (crcBitStep s).rspValid = s.rspValid := rfl
@[simp] theorem crcBitStep_rsp : (crcBitStep s).rsp = s.rsp := rfl
@[simp] theorem crcBitStep_port : (crcBitStep s).port = s.port := rfl
@[simp] theorem crcBitStep_cmds : (crcBitStep s).cmds = s.cmds := rfl
@[simp] theorem crcBitStep_tans : (crcBitStep s).tans = s.tans := rfl
@[simp] theorem crcBitStep_answers : (crcBitStep s).answers = s.answers := rfl
@[simp] theorem crcBitStep_abandoned : (crcBitStep s).abandoned = s.abandoned := rfl
@[simp] theorem crcBitStep_rspReady : (crcBitStep s).rspReady = s.rspReady := rfl
@[simp] theorem crcBitStep_rst : (crcBitStep s).rst = s.rst := rfl
@[simp] theorem crcBitStep_trace : (crcBitStep s).trace = s.trace := rfl
@[simp] theorem crcBitStep_delivered : (crcBitStep s).delivered = s.delivered := rfl
@[simp] theorem crcBitStep_draws : (crcBitStep s).draws = s.draws := rfl
@[simp] theorem crcBitStep_cfg : (crcBitStep s).cfg = s.cfg := rfl

@[simp] theorem storeSp_acc (b : Byte) : (storeSp b s).acc = s.acc := rfl
@[simp] theorem storeSp_bitcnt (b : Byte) : (storeSp b s).bitcnt = s.bitcnt := rfl
@[simp] theorem storeSp_sp (b : Byte) : (storeSp b s).sp = s.sp.setIfInBounds s.bytecnt.toNat b := rfl
@[simp] theorem storeSp_bytecnt (b : Byte) : (storeSp b s).bytecnt = s.bytecnt + 1#4 := rfl
@[simp] theorem storeSp_devlist (b : Byte) : (storeSp b s).devlist = s.devlist := rfl
@[simp] theorem storeSp_devidx (b : Byte) : (storeSp b s).devidx = s.devidx := rfl
@[simp] theorem storeSp_seq (b : Byte) : (storeSp b s).seq = s.seq := rfl
@[simp] theorem storeSp_op (b : Byte) : (storeSp b s).op = s.op := rfl
@[simp] theorem storeSp_arg (b : Byte) : (storeSp b s).arg = s.arg := rfl
@[simp] theorem storeSp_waitcnt (b : Byte) : (storeSp b s).waitcnt = s.waitcnt := rfl
@[simp] theorem storeSp_rspValid (b : Byte) : (storeSp b s).rspValid = s.rspValid := rfl
@[simp] theorem storeSp_rsp (b : Byte) : (storeSp b s).rsp = s.rsp := rfl
@[simp] theorem storeSp_port (b : Byte) : (storeSp b s).port = s.port := rfl
@[simp] theorem storeSp_cmds (b : Byte) : (storeSp b s).cmds = s.cmds := rfl
@[simp] theorem storeSp_tans (b : Byte) : (storeSp b s).tans = s.tans := rfl
@[simp] theorem storeSp_answers (b : Byte) : (storeSp b s).answers = s.answers := rfl
@[simp] theorem storeSp_abandoned (b : Byte) : (storeSp b s).abandoned = s.abandoned := rfl
@[simp] theorem storeSp_rspReady (b : Byte) : (storeSp b s).rspReady = s.rspReady := rfl
@[simp] theorem storeSp_rst (b : Byte) : (storeSp b s).rst = s.rst := rfl
@[simp] theorem storeSp_trace (b : Byte) : (storeSp b s).trace = s.trace := rfl
@[simp] theorem storeSp_delivered (b : Byte) : (storeSp b s).delivered = s.delivered := rfl
@[simp] theorem storeSp_draws (b : Byte) : (storeSp b s).draws = s.draws := rfl
@[simp] theorem storeSp_cfg (b : Byte) : (storeSp b s).cfg = s.cfg := rfl

@[simp] theorem sendRequest_acc (r : Request) : (sendRequest r s).acc = s.acc := rfl
@[simp] theorem sendRequest_bitcnt (r : Request) : (sendRequest r s).bitcnt = s.bitcnt := rfl
@[simp] theorem sendRequest_sp (r : Request) : (sendRequest r s).sp = s.sp := rfl
@[simp] theorem sendRequest_bytecnt (r : Request) : (sendRequest r s).bytecnt = s.bytecnt := rfl
@[simp] theorem sendRequest_devlist (r : Request) : (sendRequest r s).devlist = s.devlist := rfl
@[simp] theorem sendRequest_devidx (r : Request) : (sendRequest r s).devidx = s.devidx := rfl
@[simp] theorem sendRequest_seq (r : Request) : (sendRequest r s).seq = s.seq := rfl
@[simp] theorem sendRequest_op (r : Request) : (sendRequest r s).op = s.op := rfl
@[simp] theorem sendRequest_arg (r : Request) : (sendRequest r s).arg = s.arg := rfl
@[simp] theorem sendRequest_waitcnt (r : Request) : (sendRequest r s).waitcnt = s.waitcnt := rfl
@[simp] theorem sendRequest_rspValid (r : Request) : (sendRequest r s).rspValid = s.rspValid := rfl
@[simp] theorem sendRequest_rsp (r : Request) : (sendRequest r s).rsp = s.rsp := rfl
@[simp] theorem sendRequest_port (r : Request) : (sendRequest r s).port = .waiting r [] := rfl
@[simp] theorem sendRequest_cmds (r : Request) : (sendRequest r s).cmds = s.cmds := rfl
@[simp] theorem sendRequest_tans (r : Request) : (sendRequest r s).tans = s.tans ++ s.answers.headD [] := rfl
@[simp] theorem sendRequest_answers (r : Request) : (sendRequest r s).answers = s.answers.tail := rfl
@[simp] theorem sendRequest_abandoned (r : Request) : (sendRequest r s).abandoned = s.abandoned := rfl
@[simp] theorem sendRequest_rspReady (r : Request) : (sendRequest r s).rspReady = s.rspReady := rfl
@[simp] theorem sendRequest_rst (r : Request) : (sendRequest r s).rst = s.rst := rfl
@[simp] theorem sendRequest_trace (r : Request) : (sendRequest r s).trace = s.trace ++ [.req r] := rfl
@[simp] theorem sendRequest_delivered (r : Request) : (sendRequest r s).delivered = s.delivered := rfl
@[simp] theorem sendRequest_draws (r : Request) : (sendRequest r s).draws = s.draws := rfl
@[simp] theorem sendRequest_cfg (r : Request) : (sendRequest r s).cfg = s.cfg := rfl

@[simp] theorem ignoreLate_acc (w : TansWord) (l : List Abandoned) : (ignoreLate w l s).acc = s.acc := rfl
@[simp] theorem ignoreLate_bitcnt (w : TansWord) (l : List Abandoned) : (ignoreLate w l s).bitcnt = s.bitcnt := rfl
@[simp] theorem ignoreLate_sp (w : TansWord) (l : List Abandoned) : (ignoreLate w l s).sp = s.sp := rfl
@[simp] theorem ignoreLate_bytecnt (w : TansWord) (l : List Abandoned) : (ignoreLate w l s).bytecnt = s.bytecnt := rfl
@[simp] theorem ignoreLate_devlist (w : TansWord) (l : List Abandoned) : (ignoreLate w l s).devlist = s.devlist := rfl
@[simp] theorem ignoreLate_devidx (w : TansWord) (l : List Abandoned) : (ignoreLate w l s).devidx = s.devidx := rfl
@[simp] theorem ignoreLate_seq (w : TansWord) (l : List Abandoned) : (ignoreLate w l s).seq = s.seq := rfl
@[simp] theorem ignoreLate_op (w : TansWord) (l : List Abandoned) : (ignoreLate w l s).op = s.op := rfl
@[simp] theorem ignoreLate_arg (w : TansWord) (l : List Abandoned) : (ignoreLate w l s).arg = s.arg := rfl
@[simp] theorem ignoreLate_waitcnt (w : TansWord) (l : List Abandoned) : (ignoreLate w l s).waitcnt = s.waitcnt := rfl
@[simp] theorem ignoreLate_rspValid (w : TansWord) (l : List Abandoned) : (ignoreLate w l s).rspValid = s.rspValid := rfl
@[simp] theorem ignoreLate_rsp (w : TansWord) (l : List Abandoned) : (ignoreLate w l s).rsp = s.rsp := rfl
@[simp] theorem ignoreLate_port (w : TansWord) (l : List Abandoned) : (ignoreLate w l s).port = s.port := rfl
@[simp] theorem ignoreLate_cmds (w : TansWord) (l : List Abandoned) : (ignoreLate w l s).cmds = s.cmds := rfl
@[simp] theorem ignoreLate_tans (w : TansWord) (l : List Abandoned) : (ignoreLate w l s).tans = s.tans := rfl
@[simp] theorem ignoreLate_answers (w : TansWord) (l : List Abandoned) : (ignoreLate w l s).answers = s.answers := rfl
@[simp] theorem ignoreLate_abandoned (w : TansWord) (l : List Abandoned) : (ignoreLate w l s).abandoned = l := rfl
@[simp] theorem ignoreLate_rspReady (w : TansWord) (l : List Abandoned) : (ignoreLate w l s).rspReady = s.rspReady := rfl
@[simp] theorem ignoreLate_rst (w : TansWord) (l : List Abandoned) : (ignoreLate w l s).rst = s.rst := rfl
@[simp] theorem ignoreLate_trace (w : TansWord) (l : List Abandoned) : (ignoreLate w l s).trace = s.trace ++ [.late w] := rfl
@[simp] theorem ignoreLate_delivered (w : TansWord) (l : List Abandoned) : (ignoreLate w l s).delivered = s.delivered := rfl
@[simp] theorem ignoreLate_draws (w : TansWord) (l : List Abandoned) : (ignoreLate w l s).draws = s.draws := rfl
@[simp] theorem ignoreLate_cfg (w : TansWord) (l : List Abandoned) : (ignoreLate w l s).cfg = s.cfg := rfl

end Sys2Proof.Machine
end

