-- ==== Sys2Proof/Laws/Ops.lean ====
section
/-! SUPPORT. For each shared operation, all it can do. -/

namespace Sys2Proof.Machine

variable {s s' : State}

theorem acceptCmd_idle (op : Byte) (arg : BitVec 64) (f : State → State) (h : s.seq = .sIdle) :
    acceptCmd op arg f s = .next (f (latch op arg s)) := by
  simp [acceptCmd, h]

theorem acceptCmd_held (op : Byte) (arg : BitVec 64) (f : State → State) (h : s.seq ≠ .sIdle) :
    acceptCmd op arg f s = .next s := by
  simp [acceptCmd, h]

theorem issue_free (r : Request) (h : s.port = .free) :
    issue r s = .next (sendRequest r s) := by
  simp [issue, h]

theorem issue_waiting (r q : Request) (items : List Addr) (h : s.port = .waiting q items) :
    issue r s = .next s := by
  simp [issue, h]

theorem deliverWord_waiting (w : RspWord) (h : s.seq = .sRespond) (hr : s.rspReady = true)
    (hw : s.rsp = w) : deliverWord w s = .next (deliver s) := by
  simp [deliverWord, h, hr, hw]

/-- A reset with a request outstanding abandons it, with the beats that answer it (R192). -/
theorem abandonRequest_waiting {r : Request} {items : List Addr} (h : s.port = .waiting r items) :
    abandonRequest s = { s with tans := [], abandoned := s.abandoned ++ [⟨r, s.tans⟩] } := by
  simp [abandonRequest, h]

theorem abandonRequest_free (h : s.port = .free) : abandonRequest s = s := by
  simp [abandonRequest, h]

/-- No beat comes for an abandoned request exactly when each has none left. -/
theorem nextLate_quiet_iff : nextLate s.abandoned = .quiet ↔ noLateBeat s := by
  unfold noLateBeat
  induction s.abandoned with
  | nil => simp [nextLate]
  | cons a rest ih =>
    obtain ⟨r, beats⟩ := a
    cases beats with
    | nil =>
      simp only [List.forall_mem_cons, true_and, ← ih, nextLate]
      cases nextLate rest <;> simp [Late.after]
    | cons w ws =>
      simp only [nextLate, lateBeat, List.forall_mem_cons]
      repeat' split
      all_goals simp

/-- Requests from which nothing comes do not hide what comes for a later one. -/
theorem nextLate_append {before l : List Abandoned} (hb : ∀ a ∈ before, a.beats = [])
    {w : TansWord} {l' : List Abandoned} (h : nextLate l = .ignore w l') :
    nextLate (before ++ l) = .ignore w (before ++ l') := by
  induction before with
  | nil => exact h
  | cons a before ih =>
    obtain ⟨r, beats⟩ := a
    obtain ⟨rfl, hr⟩ := List.forall_mem_cons.1 hb
    simp [nextLate, ih hr, Late.after]

/-- A beat that R88 allows in the answer to an abandoned request is ignored: an item leaves what comes after
it, a last beat ends the answer. -/
theorem nextLate_cons {r : Request} {w : TansWord} {ws : List TansWord} {rest : List Abandoned}
    (h : answerAllowed r (w :: ws)) :
    nextLate (⟨r, w :: ws⟩ :: rest) =
      .ignore w (if tansKind w = 2#2 then ⟨r, ws⟩ :: rest else rest) := by
  simp only [answerAllowed] at h
  split at h <;> simp_all [nextLate, lateBeat]

/-- A late beat is ignored: the first that is left of an answer, with the requests before it silent and
nothing changed but what is left of that answer (R192). -/
theorem nextLate_ignore {l l' : List Abandoned} {w : TansWord} (h : nextLate l = .ignore w l') :
    ∃ (before rest : List Abandoned) (r : Request) (ws : List TansWord),
      l = before ++ ⟨r, w :: ws⟩ :: rest ∧ (∀ a ∈ before, a.beats = []) ∧
        ((tansKind w = 2#2 ∧ r = .scan ∧ l' = before ++ ⟨r, ws⟩ :: rest) ∨
          (tansKind w ≠ 2#2 ∧ tansKind w ≠ 3#2 ∧ ws = [] ∧ l' = before ++ rest)) := by
  induction l generalizing l' with
  | nil => simp [nextLate] at h
  | cons a rest ih =>
    obtain ⟨r, beats⟩ := a
    cases beats with
    | nil =>
      simp only [nextLate] at h
      cases hn : nextLate rest with
      | quiet => simp [hn, Late.after] at h
      | refuse e => simp [hn, Late.after] at h
      | ignore v m =>
        simp only [hn, Late.after, Late.ignore.injEq] at h
        obtain ⟨rfl, rfl⟩ := h
        obtain ⟨before, after, q, ws, rfl, hb, hc⟩ := ih hn
        refine ⟨⟨r, []⟩ :: before, after, q, ws, rfl, by simpa using hb, ?_⟩
        simpa using hc
    | cons v ws =>
      simp only [nextLate, lateBeat] at h
      split at h
      next => cases h
      next h3 =>
        split at h
        next h2 =>
          split at h
          next hr => cases h; exact ⟨[], rest, r, ws, rfl, by simp, .inl ⟨h2, hr, rfl⟩⟩
          next => cases h
        next h2 =>
          split at h
          next hw => cases h; exact ⟨[], _, r, ws, rfl, by simp, .inr ⟨h2, h3, hw, rfl⟩⟩
          next => cases h

/-- While the answers to abandoned requests are as R88 allows, no late beat is refused. -/
theorem nextLate_allowed {l : List Abandoned} (h : ∀ a ∈ l, answerAllowed a.request a.beats)
    (e : Refusal) : nextLate l ≠ .refuse e := by
  induction l with
  | nil => simp [nextLate]
  | cons a rest ih =>
    obtain ⟨r, beats⟩ := a
    obtain ⟨ha, hr⟩ := List.forall_mem_cons.1 h
    cases beats with
    | nil =>
      have := ih hr
      cases hn : nextLate rest <;> simp_all [nextLate, Late.after]
    | cons w ws =>
      simp only [answerAllowed] at ha
      simp only [nextLate, lateBeat]
      split at ha
      next h2 => simp [h2, ha.1]
      next h2 => simp [h2, ha.1, ha.2]

/-- A delivery hands over the waiting word or changes nothing. -/
theorem deliverWord_cases {w : RspWord} (h : deliverWord w s = .next s') :
    (s.seq = .sRespond ∧ s.rspReady = true ∧ s.rsp = w ∧ s' = deliver s) ∨ s' = s := by
  unfold deliverWord at h
  split at h
  next hc => exact .inl ⟨hc.1, hc.2.1, hc.2.2, by simpa using h.symm⟩
  next => exact .inr (by simpa using h.symm)

/-- The row of the waiting word delivers it (R132). -/
theorem exec_response {i : Instr} (hd : decodeRsp s.rsp = .ok i) (h : s.seq = .sRespond)
    (hy : s.rspReady = true) : exec i s = .next (deliver s) := by
  unfold decodeRsp at hd
  split at hd
  next hs => cases hd; exact deliverWord_waiting _ h hy (rspWord_fields s.rsp .ok hs).symm
  next =>
  split at hd
  next hs => cases hd; exact deliverWord_waiting _ h hy (rspWord_fields s.rsp .invalid hs).symm
  next =>
  split at hd
  next hs =>
    cases hd; exact deliverWord_waiting _ h hy (rspWord_fields s.rsp .transportFail hs).symm
  next =>
  split at hd
  next hs => cases hd; exact deliverWord_waiting _ h hy (rspWord_fields s.rsp .illegalOp hs).symm
  next =>
  split at hd
  next hs => cases hd; exact deliverWord_waiting _ h hy (rspWord_fields s.rsp .listOverflow hs).symm
  next => cases hd

/-- A scan that is done replaces the list or overflows (R131, R165). -/
theorem completeScan_cases (items : List Addr) (s : State) :
    (fits s.cfg items.length = true ∧ completeScan items s =
        respond .ok 0#8 (BitVec.ofNat 16 items.length) { s with devlist := items }) ∨
      (fits s.cfg items.length = false ∧ completeScan items s = abortWith .listOverflow 0#8 s) := by
  unfold completeScan
  cases h : fits s.cfg items.length <;> simp

/-- The eight states of `SEQ` in which a request is done, and what each goes on to. -/
theorem completeRequest_cases {t : BitVec 64} {items : List Addr}
    (h : completeRequest t items s = some s') :
    (s.seq = .sScan ∧ s' = completeScan items s) ∨
      (s.seq = .sConvReset ∧ s' = { s with seq := .sConvSelect }) ∨
      (s.seq = .sConvSelect ∧ s' = { s with seq := .sConvWrite }) ∨
      (s.seq = .sConvWrite ∧ s' = { s with devidx := s.devidx + 1, seq := .sConvReset }) ∨
      (s.seq = .sRdReset ∧ s' = { s with seq := .sRdSelect }) ∨
      (s.seq = .sRdSelect ∧ s' = { s with seq := .sRdWrite }) ∨
      (s.seq = .sRdWrite ∧ s' = { s with bytecnt := 0#4, seq := .sRdBytes }) ∨
      (s.seq = .sRdBytes ∧ s' = storeSp (tdataByte t) s) := by
  unfold completeRequest at h
  split at h <;> simp_all

/-- What a beat does when it arrives with a request outstanding (R88). -/
theorem exec_beat_cases {w : TansWord} {i : Instr} {r : Request} {items : List Addr}
    (hd : decodeTans w = .ok i) (hp : s.port = .waiting r items) (h : exec i s = .next s') :
    (∃ t, w = doneBeat t ∧
        completeRequest t items (closeRequest (recordBeat w s)) = some s') ∨
      (∃ t, w = failBeat t ∧ requestState s.seq = true ∧
        s' = abortWith .transportFail (tdataByte t) (recordBeat w s)) ∨
      (∃ a, w = itemBeat a ∧ r = .scan ∧
        s' = { recordBeat w s with port := .waiting .scan (items ++ [a]) }) := by
  have hw := tansWord_fields w
  unfold decodeTans at hd
  split at hd
  next hk =>
    cases hd
    rw [hk] at hw
    refine .inl ⟨tansData w, hw.symm, ?_⟩
    have hb : doneBeat (tansData w) = w := hw
    simp only [exec, execTansDone, hp, hb] at h
    split at h
    next t ht => cases h; exact ht
    next => cases h
  next =>
  split at hd
  next hk =>
    cases hd
    rw [hk] at hw
    have hb : failBeat (tansData w) = w := hw
    simp only [exec, execTansFail, hp, hb] at h
    split at h
    next hq => cases h; exact .inr (.inl ⟨tansData w, hw.symm, hq, rfl⟩)
    next => cases h
  next =>
  split at hd
  next hk =>
    cases hd
    rw [hk] at hw
    have hb : itemBeat (tansData w) = w := hw
    cases r with
    | scan =>
      simp only [exec, execTansItem, hp, hb] at h
      cases h
      exact .inr (.inr ⟨tansData w, hw.symm, rfl, rfl⟩)
    | reset => simp [exec, execTansItem, hp] at h
    | select a => simp [exec, execTansItem, hp] at h
    | write v => simp [exec, execTansItem, hp] at h
    | read => simp [exec, execTansItem, hp] at h
  next => cases hd

/-- An instruction of the port issues its request. -/
theorem exec_requestOf {i : Instr} {r : Request} (h : requestOf i = some r) :
    exec i s = issue r s := by
  cases i <;> simp [requestOf] at h <;> subst h <;> rfl

/-- What the step that accepts word `w` leaves, for each of the six operations (R130). -/
def acceptedState (w : CmdWord) (s : State) : Instr → State
  | .scan _ => { latch (cmdOp w) (cmdArg w) s with seq := .sScan }
  | .convert _ => { latch (cmdOp w) (cmdArg w) s with devidx := 0, seq := .sConvReset }
  | .wait _ => { latch (cmdOp w) (cmdArg w) s with waitcnt := waitTicks s.cfg, seq := .sWait }
  | .read _ => { latch (cmdOp w) (cmdArg w) s with bytecnt := 0#4, seq := .sRdReset }
  | .crcclr _ =>
    respond .ok 0#8 0x0000#16
      { latch (cmdOp w) (cmdArg w) s with acc := Config.crcInit, bitcnt := 0#4 }
  | .crcbyte _ _ =>
    loadCrcByte (argByte (cmdArg w)) { latch (cmdOp w) (cmdArg w) s with seq := .sCrcRun }
  | .tReset | .tSelect _ | .tWrite _ | .tRead | .tScan | .cmdConvertT | .cmdReadScratchpad => s
  | .rspOk _ _ | .rspInvalid _ _ | .rspTransportFail _ _ | .rspIllegalOp _ _
  | .rspListOverflow _ _ => s
  | .tansDone _ | .tansFail _ | .tansItem _ => s

/-- The step that accepts a command does nothing else. -/
theorem exec_accept {w : CmdWord} {i : Instr} (hd : decodeCmd w = .ok i) (h : s.seq = .sIdle) :
    exec i s = .next (acceptedState w s i) := by
  have split : ∀ x : BitVec 72, x.extractLsb' 8 56 ++ x.extractLsb' 0 8 = cmdArg x := fun x =>
    BitVec.extractLsb'_append_extractLsb'_eq_extractLsb' (x := x) (start₁ := 0) (len₁ := 8)
      (start₂ := 8) (len₂ := 56) rfl
  unfold decodeCmd at hd
  split at hd
  next ho => cases hd; simp [exec, execScan, acceptCmd, acceptedState, h, ho]
  next =>
  split at hd
  next ho => cases hd; simp [exec, execConvert, acceptCmd, acceptedState, h, ho]
  next =>
  split at hd
  next ho => cases hd; simp [exec, execWait, acceptCmd, acceptedState, h, ho]
  next =>
  split at hd
  next ho => cases hd; simp [exec, execRead, acceptCmd, acceptedState, h, ho]
  next =>
  split at hd
  next ho => cases hd; simp [exec, execCrcclr, acceptCmd, acceptedState, h, ho]
  next =>
  split at hd
  next ho => cases hd; simp [exec, execCrcbyte, acceptCmd, acceptedState, h, ho, split]
  next => cases hd

/-- The six cases of an accepted word: its op and what it decodes to (R82). -/
theorem decodeCmd_cases {w : CmdWord} {i : Instr} (hd : decodeCmd w = .ok i) :
    (cmdOp w = 0x01#8 ∧ i = .scan (cmdArg w)) ∨ (cmdOp w = 0x02#8 ∧ i = .convert (cmdArg w)) ∨
      (cmdOp w = 0x03#8 ∧ i = .wait (cmdArg w)) ∨ (cmdOp w = 0x04#8 ∧ i = .read (cmdArg w)) ∨
      (cmdOp w = 0x08#8 ∧ i = .crcclr (cmdArg w)) ∨
      (cmdOp w = 0x09#8 ∧ i = .crcbyte (w.extractLsb' 8 56) (w.extractLsb' 0 8)) := by
  unfold decodeCmd at hd
  repeat' split at hd
  all_goals simp_all

/-- A word that is rejected has a reserved op (R93). -/
theorem decodeCmd_error {w : CmdWord} {e : DecodeError} (hd : decodeCmd w = .error e) :
    opAssigned (cmdOp w) = false := by
  unfold decodeCmd at hd
  repeat' split at hd
  all_goals simp_all [opAssigned]

end Sys2Proof.Machine
end

