-- ==== Sys2Proof/Laws/PerInstr.lean ====
section
/-! SUPPORT. One statement per instruction: its encoded word is of its row of the opcode table. -/

namespace Sys2Proof.Laws.TableMatch

/-- The encoded word of `i` has the format, and under the row's mask the code, that the opcode table
gives its row. -/
def Statement (i : Instr) : Prop :=
  i.tableRow.format = i.format ∧ (encode i).toNat &&& i.tableRow.mask = i.tableRow.code

/-- A mask over the upper field of a word keeps that field alone. -/
theorem masked_append {v w : Nat} (x m : BitVec v) (y : BitVec w) :
    (x ++ y).toNat &&& (m ++ 0#w).toNat = ((x &&& m) ++ 0#w).toNat := by
  rw [← BitVec.toNat_and, BitVec.and_append]
  simp

/-- The status mask keeps the status of a response word alone (R84). -/
theorem masked_status (st : Status) (i : Byte) (d : BitVec 16) :
    (rspWord st i d).toNat &&& 0xF000000 = (st.code ++ 0#8 ++ 0#16).toNat := by
  have h := masked_append (st.code ++ i) (0xF#4 ++ 0#8) d
  rw [BitVec.and_append] at h
  cases st <;> simpa [rspWord, Status.code] using h

theorem scan (arg : BitVec 64) : Statement (.scan arg) :=
  ⟨rfl, masked_append 0x01#8 0xFF#8 arg⟩

theorem convert (arg : BitVec 64) : Statement (.convert arg) :=
  ⟨rfl, masked_append 0x02#8 0xFF#8 arg⟩

theorem wait (arg : BitVec 64) : Statement (.wait arg) :=
  ⟨rfl, masked_append 0x03#8 0xFF#8 arg⟩

theorem read (a : Addr) : Statement (.read a) :=
  ⟨rfl, masked_append 0x04#8 0xFF#8 a⟩

theorem crcclr (arg : BitVec 64) : Statement (.crcclr arg) :=
  ⟨rfl, masked_append 0x08#8 0xFF#8 arg⟩

theorem crcbyte (hi : BitVec 56) (b : Byte) : Statement (.crcbyte hi b) :=
  ⟨rfl, masked_append 0x09#8 0xFF#8 (hi ++ b)⟩

theorem tReset : Statement (.tReset) :=
  ⟨rfl, by decide⟩

theorem tSelect (a : Addr) : Statement (.tSelect a) :=
  ⟨rfl, masked_append 1#3 7#3 a⟩

theorem tWrite (v : Byte) : Statement (.tWrite v) :=
  ⟨rfl, masked_append 2#3 7#3 (0#56 ++ v)⟩

theorem tRead : Statement (.tRead) :=
  ⟨rfl, by decide⟩

theorem tScan : Statement (.tScan) :=
  ⟨rfl, by decide⟩

theorem cmdConvertT : Statement (.cmdConvertT) :=
  ⟨rfl, by decide⟩

theorem cmdReadScratchpad : Statement (.cmdReadScratchpad) :=
  ⟨rfl, by decide⟩

theorem rspOk (info : Byte) (data : BitVec 16) : Statement (.rspOk info data) :=
  ⟨rfl, masked_status .ok info data⟩

theorem rspInvalid (info : Byte) (data : BitVec 16) : Statement (.rspInvalid info data) :=
  ⟨rfl, masked_status .invalid info data⟩

theorem rspTransportFail (info : Byte) (data : BitVec 16) : Statement (.rspTransportFail info data) :=
  ⟨rfl, masked_status .transportFail info data⟩

theorem rspIllegalOp (info : Byte) (data : BitVec 16) : Statement (.rspIllegalOp info data) :=
  ⟨rfl, masked_status .illegalOp info data⟩

theorem rspListOverflow (info : Byte) (data : BitVec 16) : Statement (.rspListOverflow info data) :=
  ⟨rfl, masked_status .listOverflow info data⟩

theorem tansDone (t : BitVec 64) : Statement (.tansDone t) :=
  ⟨rfl, masked_append 0#2 3#2 t⟩

theorem tansFail (t : BitVec 64) : Statement (.tansFail t) :=
  ⟨rfl, masked_append 1#2 3#2 t⟩

theorem tansItem (a : Addr) : Statement (.tansItem a) :=
  ⟨rfl, masked_append 2#2 3#2 a⟩

end Sys2Proof.Laws.TableMatch
end

