-- ==== Sys2Proof/Laws/Step.lean ====
section
/-! SUPPORT. What a step is in each situation, and, once, all it can do. -/

namespace Sys2Proof.Machine

variable {s s' : State}

theorem step_of_rst (h : s.rst = true) : step s = .next (resetBlock s) := by
  simp [step, nextEvent, h]

/-- A late beat is ignored (R192). -/
theorem step_late {w : TansWord} {rest : List Abandoned} (hr : s.rst = false)
    (hl : nextLate s.abandoned = .ignore w rest) : step s = .next (ignoreLate w rest s) := by
  simp [step, nextEvent, hr, hl]

/-- A late beat that R88 does not allow is refused (R94). -/
theorem step_late_refused {e : Refusal} (hr : s.rst = false)
    (hl : nextLate s.abandoned = .refuse e) : step s = .refused e := by
  simp [step, nextEvent, hr, hl]

theorem step_beat {w : TansWord} {rest : List TansWord} {i : Instr} (hr : s.rst = false)
    (hl : noLateBeat s) (ht : s.tans = w :: rest) (hd : decodeTans w = .ok i) :
    step s = exec i { s with tans := rest } := by
  simp [step, nextEvent, nextBeat, hr, nextLate_quiet_iff.2 hl, ht, hd]

theorem step_reserved_beat {w : TansWord} {rest : List TansWord} {e : DecodeError} (hr : s.rst = false)
    (hl : noLateBeat s) (ht : s.tans = w :: rest) (hd : decodeTans w = .error e) :
    step s = .refused .reservedBeatKind := by
  simp [step, nextEvent, nextBeat, hr, nextLate_quiet_iff.2 hl, ht, hd]

theorem step_no_beat {r : Request} {items : List Addr} (hr : s.rst = false) (hl : noLateBeat s)
    (hp : s.port = .waiting r items) (ht : s.tans = []) : step s = .next s := by
  simp [step, nextEvent, nextOwn, hr, nextLate_quiet_iff.2 hl, hp, ht]

/-- With no request outstanding and no beat on the port, `SEQ` says what the step is (R27). -/
theorem nextEvent_running (h : Running s) : nextEvent s = nextOwn s := by
  obtain ⟨hr, -, ht, hl⟩ := h
  simp [nextEvent, hr, ht, nextLate_quiet_iff.2 hl]

theorem step_command {w : CmdWord} {rest : List CmdWord} {i : Instr} (h : Ready s)
    (hc : s.cmds = w :: rest) (hd : decodeCmd w = .ok i) :
    step s = exec i { s with cmds := rest } := by
  simp [step, nextEvent_running h.1, nextOwn, nextCommand, h.1.2.1, h.2, hc, hd]

theorem step_illegal {w : CmdWord} {rest : List CmdWord} {e : DecodeError} (h : Ready s)
    (hc : s.cmds = w :: rest) (hd : decodeCmd w = .error e) :
    step s = .next (acceptIllegal w { s with cmds := rest }) := by
  simp [step, nextEvent_running h.1, nextOwn, nextCommand, h.1.2.1, h.2, hc, hd]

theorem step_no_command (h : Ready s) (hc : s.cmds = []) : step s = .next s := by
  simp [step, nextEvent_running h.1, nextOwn, nextCommand, h.1.2.1, h.2, hc]

theorem step_response (h : Running s) (hq : s.seq = .sRespond) (hy : s.rspReady = true) :
    step s = .next (deliver s) := by
  cases hd : decodeRsp s.rsp with
  | ok i =>
    simp [step, nextEvent_running h, nextOwn, nextResponse, h.2.1, hq, hy, hd, exec_response hd hq hy]
  | error e => simp [step, nextEvent_running h, nextOwn, nextResponse, h.2.1, hq, hy, hd]

theorem step_response_held (h : Running s) (hq : s.seq = .sRespond) (hy : s.rspReady = false) :
    step s = .next s := by
  simp [step, nextEvent_running h, nextOwn, nextResponse, h.2.1, hq, hy]

/-- In a state of an operation the step is the engine's. -/
theorem nextEvent_engine (h : Running s) (h1 : s.seq ≠ .sIdle) (h2 : s.seq ≠ .sRespond) :
    nextEvent s = nextEngine s := by
  rw [nextEvent_running h]
  cases hq : s.seq <;> simp_all [nextOwn, h.2.1]

/-- Where the engine has a request to issue, the step issues it. -/
theorem step_engine {i : Instr} (h : Running s) (he : engineRequest s = some i) :
    step s = exec i s := by
  have h1 : s.seq ≠ .sIdle := by intro hq; simp [engineRequest, hq] at he
  have h2 : s.seq ≠ .sRespond := by intro hq; simp [engineRequest, hq] at he
  simp [step, nextEvent_engine h h1 h2, nextEngine, he]

/-- Where it has none, the step is the engine's own. -/
theorem step_internal (h : Running s) (h1 : s.seq ≠ .sIdle) (h2 : s.seq ≠ .sRespond)
    (he : engineRequest s = none) : step s = .next (internalStep s) := by
  simp [step, nextEvent_engine h h1 h2, nextEngine, he]

/-- What the engine asks for is a request of the port, and no byte but 0x44 and 0xBE is written (R89). -/
theorem engineRequest_request {i : Instr} (he : engineRequest s = some i) :
    ∃ r, requestOf i = some r ∧ ∀ v, r = .write v → busByteAllowed v = true := by
  cases hq : s.seq <;> simp only [engineRequest, hq] at he
  all_goals
    first
      | cases he; exact ⟨_, rfl, by intro v hv; first | cases hv; rfl | cases hv⟩
      | cases he
      | (split at he <;> cases he
         exact ⟨_, rfl, by intro v hv; cases hv⟩)

/-- An engine's own step leaves the channels, the observers' logs, the list and the parameters alone. -/
theorem internal_frame (s : State) :
    (internalStep s).trace = s.trace ∧ (internalStep s).devlist = s.devlist ∧
      (internalStep s).cmds = s.cmds ∧ (internalStep s).tans = s.tans ∧
      (internalStep s).answers = s.answers ∧ (internalStep s).abandoned = s.abandoned ∧
      (internalStep s).delivered = s.delivered ∧ (internalStep s).cfg = s.cfg ∧
      (internalStep s).port = s.port ∧ (s.seq ≠ .sIdle → (internalStep s).seq ≠ .sIdle) := by
  cases hq : s.seq <;>
    simp only [internalStep, hq, finishConvert, waitStep, startCrcPhase, rdCrcStep, crcRunStep,
      rdCheckStep, crcBitStep, loadCrcByte]
  all_goals (repeat' split)
  all_goals simp [respondInvalid]

/-- All that a step can do, one constructor a kind of event. -/
inductive StepCase (s : State) : State → Prop
  /-- `rst` is asserted (R190). -/
  | reset (hr : s.rst = true) : StepCase s (resetBlock s)
  /-- Nothing is enabled (R172). -/
  | waits (hr : s.rst = false)
      (h : (∃ r items, s.port = .waiting r items ∧ s.tans = []) ∨
        (s.port = .free ∧ s.seq = .sIdle ∧ s.cmds = []) ∨
        (s.port = .free ∧ s.seq = .sRespond ∧ s.rspReady = false)) : StepCase s s
  /-- A beat of the answer to an abandoned request is ignored (R192). -/
  | ignores (hr : s.rst = false) (w : TansWord) (rest : List Abandoned)
      (hl : nextLate s.abandoned = .ignore w rest) : StepCase s (ignoreLate w rest s)
  /-- A command is accepted (R130). -/
  | accepts (h : Ready s) (w : CmdWord) (rest : List CmdWord) (i : Instr) (hc : s.cmds = w :: rest)
      (hd : decodeCmd w = .ok i) : StepCase s (acceptedState w { s with cmds := rest } i)
  /-- A command with a reserved op is answered (R164). -/
  | rejects (h : Ready s) (w : CmdWord) (rest : List CmdWord) (e : DecodeError)
      (hc : s.cmds = w :: rest) (hd : decodeCmd w = .error e) :
      StepCase s (acceptIllegal w { s with cmds := rest })
  /-- The host takes the waiting response (R132). -/
  | delivers (h : Running s) (hq : s.seq = .sRespond) (hy : s.rspReady = true) :
      StepCase s (deliver s)
  /-- The engine issues a request (R52). -/
  | issues (h : Running s) (i : Instr) (r : Request) (he : engineRequest s = some i)
      (hi : requestOf i = some r) : StepCase s (sendRequest r s)
  /-- A step of the engine's own (R114, R133, R135, R138 to R140). -/
  | moves (h : Running s) (h1 : s.seq ≠ .sIdle) (h2 : s.seq ≠ .sRespond)
      (he : engineRequest s = none) : StepCase s (internalStep s)
  /-- A `DONE` beat takes the operation on (R88). -/
  | done (hr : s.rst = false) (r : Request) (items : List Addr) (hp : s.port = .waiting r items)
      (d : BitVec 64) (rest : List TansWord) (ht : s.tans = doneBeat d :: rest) (t : State)
      (hc : completeRequest d items (closeRequest (recordBeat (doneBeat d) { s with tans := rest })) =
        some t) : StepCase s t
  /-- A `FAIL` beat aborts the operation (R167). -/
  | fails (hr : s.rst = false) (r : Request) (items : List Addr) (hp : s.port = .waiting r items)
      (d : BitVec 64) (rest : List TansWord) (ht : s.tans = failBeat d :: rest)
      (hq : requestState s.seq = true) :
      StepCase s (abortWith .transportFail (tdataByte d) (recordBeat (failBeat d) { s with tans := rest }))
  /-- An `ITEM` beat of a scan is kept (R88). -/
  | item (hr : s.rst = false) (items : List Addr) (hp : s.port = .waiting .scan items) (a : Addr)
      (rest : List TansWord) (ht : s.tans = itemBeat a :: rest) :
      StepCase s { recordBeat (itemBeat a) { s with tans := rest } with
        port := .waiting .scan (items ++ [a]) }

/-- A beat is taken only while a request is outstanding: with none it is refused (R94). -/
theorem exec_beat_free {w : TansWord} {i : Instr} (hd : decodeTans w = .ok i) (hp : s.port = .free) :
    exec i s = .refused .strayBeat := by
  unfold decodeTans at hd
  repeat' split at hd
  all_goals cases hd
  all_goals simp [exec, execTansDone, execTansFail, execTansItem, hp]

/-- A step that takes a beat. -/
theorem step_cases_beat {w : TansWord} {rest : List TansWord} (hr : s.rst = false)
    (hl : noLateBeat s) (ht : s.tans = w :: rest) (h : step s = .next s') : StepCase s s' := by
  cases hd : decodeTans w with
  | error e => rw [step_reserved_beat hr hl ht hd] at h; cases h
  | ok i =>
    rw [step_beat hr hl ht hd] at h
    cases hp : s.port with
    | free => rw [exec_beat_free (s := { s with tans := rest }) hd hp] at h; cases h
    | waiting r items =>
      rcases exec_beat_cases (s := { s with tans := rest }) hd hp h with
        ⟨d, rfl, hc⟩ | ⟨d, rfl, hq, rfl⟩ | ⟨a, rfl, rfl, rfl⟩
      · exact .done hr r items hp d rest ht s' hc
      · exact .fails hr r items hp d rest ht hq
      · exact .item hr items hp a rest ht

/-- A step with no request outstanding and no beat on the port. -/
theorem step_cases_running (hs : Running s) (h : step s = .next s') : StepCase s s' := by
  have hr := hs.1
  have hp := hs.2.1
  by_cases h1 : s.seq = .sIdle
  · cases hc : s.cmds with
    | nil =>
      rw [step_no_command ⟨hs, h1⟩ hc] at h; cases h
      exact .waits hr (.inr (.inl ⟨hp, h1, hc⟩))
    | cons w rest =>
      cases hd : decodeCmd w with
      | ok i =>
        rw [step_command ⟨hs, h1⟩ hc hd, exec_accept (s := { s with cmds := rest }) hd h1] at h
        cases h
        exact .accepts ⟨hs, h1⟩ w rest i hc hd
      | error e =>
        rw [step_illegal ⟨hs, h1⟩ hc hd] at h; cases h
        exact .rejects ⟨hs, h1⟩ w rest e hc hd
  · by_cases h2 : s.seq = .sRespond
    · cases hy : s.rspReady with
      | true => rw [step_response hs h2 hy] at h; cases h; exact .delivers hs h2 hy
      | false =>
        rw [step_response_held hs h2 hy] at h; cases h
        exact .waits hr (.inr (.inr ⟨hp, h2, hy⟩))
    · cases he : engineRequest s with
      | none => rw [step_internal hs h1 h2 he] at h; cases h; exact .moves hs h1 h2 he
      | some i =>
        obtain ⟨r, hi, -⟩ := engineRequest_request he
        rw [step_engine hs he, exec_requestOf hi, issue_free r hp] at h
        cases h
        exact .issues hs i r he hi

/-- A step that answers a next state is one of these. -/
theorem step_cases (h : step s = .next s') : StepCase s s' := by
  cases hr : s.rst with
  | true => rw [step_of_rst hr] at h; cases h; exact .reset hr
  | false =>
    cases hn : nextLate s.abandoned with
    | ignore w rest => rw [step_late hr hn] at h; cases h; exact .ignores hr w rest hn
    | refuse e => rw [step_late_refused hr hn] at h; cases h
    | quiet =>
      have hl := nextLate_quiet_iff.1 hn
      cases ht : s.tans with
      | cons w rest => exact step_cases_beat hr hl ht h
      | nil =>
        cases hp : s.port with
        | waiting r items =>
          rw [step_no_beat hr hl hp ht] at h; cases h
          exact .waits hr (.inl ⟨r, items, hp, ht⟩)
        | free => exact step_cases_running ⟨hr, hp, ht, hl⟩ h

end Sys2Proof.Machine
end

