-- ==== Sys2Proof/Laws/Runs.lean ====
section
/-! SUPPORT. Runs of several steps: how they compose, and what a request with its answer does. -/

namespace Sys2Proof.Machine

variable {s t u : State}

theorem run_succ {M : Host.Core} {a b : M.State} (n : Nat) (h : M.step a = .next b) :
    M.run (n + 1) a = M.run n b := by
  simp [Host.Core.run, h]

theorem run_add {M : Host.Core} {a b : M.State} {m : Nat} (n : Nat) (h : M.run m a = .next b) :
    M.run (m + n) a = M.run n b := by
  induction m generalizing a with
  | zero => cases h; simp
  | succ m ih =>
    rw [Nat.succ_add]
    simp only [Host.Core.run] at h ⊢
    split at h
    next => exact ih h
    next => cases h
    next => cases h

theorem Reaches.refl (s : State) : Reaches s s := ⟨0, rfl⟩

theorem Reaches.trans (h : Reaches s t) (k : Reaches t u) : Reaches s u := by
  obtain ⟨m, hm⟩ := h
  obtain ⟨n, hn⟩ := k
  exact ⟨m + n, (run_add (M := Sys2Proof.core) n hm).trans hn⟩

theorem Reaches.head (h : step s = .next t) (k : Reaches t u) : Reaches s u := by
  obtain ⟨n, hn⟩ := k
  exact ⟨n + 1, (run_succ (M := Sys2Proof.core) n h).trans hn⟩

theorem Reaches.one (h : step s = .next t) : Reaches s t := .head h (.refl t)

/-- A request that is issued and then done: two steps. -/
theorem reaches_done {i : Instr} {r : Request} {d : BitVec 64} {later : List (List TansWord)}
    (h : Running s) (he : engineRequest s = some i) (hi : requestOf i = some r)
    (ha : s.answers = doneAnswer d :: later)
    (hc : completeRequest d [] { s with
      answers := later, trace := s.trace ++ [.req r, .ans (doneBeat d)] } = some t) :
    Reaches s t := by
  have h1 := (step_engine h he).trans ((exec_requestOf hi).trans (issue_free r h.2.1))
  obtain ⟨hr, hp, ht, hl⟩ := h
  refine .head h1 (.one ?_)
  rw [step_beat (s := sendRequest r s) hr hl (by simp [ht, ha, doneAnswer]; rfl)
    (decodeTans_doneBeat d)]
  cases s
  simp only at hp ht ha
  subst hp ht ha
  simp only [exec, execTansDone, closeRequest, recordBeat, sendRequest, List.append_assoc,
    List.cons_append, List.nil_append, List.tail_cons] at hc ⊢
  rw [hc]

/-- A request that is issued and then fails: two steps. -/
theorem reaches_failed {i : Instr} {r : Request} {d : BitVec 64} {later : List (List TansWord)}
    (h : Running s) (he : engineRequest s = some i) (hi : requestOf i = some r)
    (ha : s.answers = [failBeat d] :: later) :
    Reaches s (abortWith .transportFail (tdataByte d) { s with
      answers := later, trace := s.trace ++ [.req r, .ans (failBeat d)] }) := by
  have h1 := (step_engine h he).trans ((exec_requestOf hi).trans (issue_free r h.2.1))
  obtain ⟨hr, hp, ht, hl⟩ := h
  have hq : requestState s.seq = true := by
    cases hs : s.seq <;> simp_all [engineRequest, requestState]
  refine .head h1 (.one ?_)
  rw [step_beat (s := sendRequest r s) hr hl (by simp [ht, ha]; rfl) (decodeTans_failBeat d)]
  cases s
  simp only at hp ht ha hq
  subst hp ht ha
  simp [exec, execTansFail, hq, abortWith, respond, recordBeat, sendRequest]

/-- The bit iterations that are left, all taken. -/
theorem reaches_bits (n : Nat) (hn : n ≤ 8) (h : Running s)
    (hq : s.seq = .sCrcRun ∨ s.seq = .sRdCrc) (hb : s.bitcnt = BitVec.ofNat 4 n) :
    Reaches s { s with acc := crcBits n s.acc, bitcnt := 0#4 } := by
  induction n generalizing s with
  | zero =>
    have : { s with acc := crcBits 0 s.acc, bitcnt := 0#4 } = s := by
      cases s; simp_all [crcBits]
    rw [this]; exact .refl s
  | succ n ih =>
    have hpos : 0#4 < s.bitcnt := by
      rw [hb, BitVec.lt_def]; simp; omega
    have hne : s.bitcnt ≠ 0#4 := by rintro h0; simp [h0] at hpos
    have hstep : internalStep s = crcBitStep s := by
      rcases hq with hq | hq <;> simp [internalStep, hq, crcRunStep, rdCrcStep, hpos, hne]
    have he : engineRequest s = none := by rcases hq with hq | hq <;> simp [engineRequest, hq]
    have h1 := step_internal h (by rcases hq with hq | hq <;> simp [hq])
      (by rcases hq with hq | hq <;> simp [hq]) he
    rw [hstep] at h1
    have hb' : (crcBitStep s).bitcnt = BitVec.ofNat 4 n := by
      simp only [crcBitStep, hb]
      apply BitVec.eq_of_toNat_eq
      simp [BitVec.toNat_sub]; omega
    exact .head h1 (ih (s := crcBitStep s) (by omega) h hq hb')

end Sys2Proof.Machine
end

