-- ==== Sys2Proof/Tests/Slice0.lean ====
section
/-! SUPPORT. Small tests: words written out from the spec's encodings, one step of each instruction with
values from 95_test_vectors.md, and for every statement with hypotheses a state that meets them. -/

namespace Sys2Proof.Machine

/-! ## States to test on -/

/-- Address `A` of 95_test_vectors.md. -/
def addrA : Addr := 0x5666554433221128#64

/-- Address `B` of 95_test_vectors.md. -/
def addrB : Addr := 0x6701EEDDCCBBAA28#64

/-- Address `X` of 95_test_vectors.md. -/
def addrX : Addr := 0x9E06050403020128#64

/-- The reset state with the sequencer at `q`, `MAX_DEV = 2` and a clock of 4 Hz (`WAIT_TICKS = 3`). -/
def stateAt (q : Seq) : State :=
  { State.reset with seq := q, cfg := { maxDev := some 2, fClkHz := 4 } }

/-- The same with a request outstanding. -/
def waitingAt (q : Seq) (r : Request) : State := { stateAt q with port := .waiting r [] }

theorem isRunning {s : State} (h : (s.rst, s.port, s.tans, s.abandoned) = (false, .free, [], [])) :
    Running s := by
  simp only [Prod.mk.injEq] at h
  exact ⟨h.1, h.2.1, h.2.2.1, by simp [noLateBeat, h.2.2.2]⟩

theorem isReady {s : State}
    (h : (s.rst, s.port, s.tans, s.abandoned, s.seq) = (false, .free, [], [], .sIdle)) :
    Ready s := by
  simp only [Prod.mk.injEq] at h
  exact ⟨isRunning (by simp [h]), h.2.2.2.2⟩

theorem isQuiet {s : State} (h : s.abandoned = []) : noLateBeat s := by simp [noLateBeat, h]

/-- The next state, where there is one. -/
def nextOf : Host.Outcome State Fault Refusal → Option State
  | .next s => some s
  | .fault _ => none
  | .refused _ => none

/-- The refusal, where there is one. -/
def refusalOf : Host.Outcome State Fault Refusal → Option Refusal
  | .next _ => none
  | .fault _ => none
  | .refused r => some r

/-- The scratchpad of V28. -/
def spV28 : Vector Byte 9 := #v[0x50#8, 0x05#8, 0x4B#8, 0x46#8, 0x7F#8, 0xFF#8, 0x0C#8, 0x10#8, 0x1C#8]

/-! ## Ill-formed words -/

theorem test_wf_write_other_byte : (Instr.tWrite 0x4E#8).wellFormed = false := by decide
theorem test_wf_write_two_bytes :
    (Instr.tWrite 0x44#8).wellFormed = true ∧ (Instr.tWrite 0xBE#8).wellFormed = true := by decide
theorem test_wf_ok_info : (Instr.rspOk 0x01#8 0#16).wellFormed = false := by decide
theorem test_wf_invalid_info : (Instr.rspInvalid 0x80#8 0#16).wellFormed = false := by decide
theorem test_wf_fail_data : (Instr.rspTransportFail 0x07#8 0x0001#16).wellFormed = false := by decide
theorem test_wf_illegal_info : (Instr.rspIllegalOp 0x01#8 0#16).wellFormed = false := by decide
theorem test_wf_illegal_data : (Instr.rspIllegalOp 0x00#8 0x8000#16).wellFormed = false := by decide
theorem test_wf_overflow_info : (Instr.rspListOverflow 0x01#8 0#16).wellFormed = false := by decide
theorem test_wf_overflow_data : (Instr.rspListOverflow 0x00#8 0x0001#16).wellFormed = false := by decide

/-! ## Decoding: words written out from 30_encoding.md -/

/-- R82, R97: `op` in bits 71:64. -/
theorem test_decode_cmd :
    decodeCmd 0x01_0000000000000000#72 = .ok (.scan 0#64) ∧
    decodeCmd 0x02_0000000000000000#72 = .ok (.convert 0#64) ∧
    decodeCmd 0x03_0000000000000000#72 = .ok (.wait 0#64) ∧
    decodeCmd 0x04_5666554433221128#72 = .ok (.read addrA) ∧
    decodeCmd 0x08_0000000000000000#72 = .ok (.crcclr 0#64) ∧
    decodeCmd 0x09_0000000000000050#72 = .ok (.crcbyte 0#56 0x50#8) := by decide

/-- The pattern of `CRCBYTE` in the opcode table, bit by bit: 00001001, 56 ignored bits, 8 byte bits. -/
theorem test_decode_crcbyte_bits :
    decodeCmd
      0b00001001_11111111111111111111111111111111111111111111111111111111_00000101#72 =
      .ok (.crcbyte 0xFFFFFFFFFFFFFF#56 0x05#8) := by decide

/-- R93: both ends of each reserved range. -/
theorem test_decode_cmd_reserved :
    decodeCmd 0x00_0000000000000000#72 = .error (.reservedOp 0x00#8) ∧
    decodeCmd 0x05_FFFFFFFFFFFFFFFF#72 = .error (.reservedOp 0x05#8) ∧
    decodeCmd 0x07_0000000000000000#72 = .error (.reservedOp 0x07#8) ∧
    decodeCmd 0x0A_0000000000000000#72 = .error (.reservedOp 0x0A#8) ∧
    decodeCmd 0xFF_0000000000000000#72 = .error (.reservedOp 0xFF#8) := by decide

/-- R87: `prim` in bits 66:64. -/
theorem test_decode_treq :
    decodeTreq 0b000_0000000000000000000000000000000000000000000000000000000000000000#67 = .ok .tReset ∧
    decodeTreq 0x1_5666554433221128#67 = .ok (.tSelect addrA) ∧
    decodeTreq 0b010_0000000000000000000000000000000000000000000000000000000001000100#67 =
      .ok (.tWrite 0x44#8) ∧
    decodeTreq 0x3_0000000000000000#67 = .ok .tRead ∧
    decodeTreq 0x4_0000000000000000#67 = .ok .tScan := by decide

theorem test_decode_treq_reserved :
    decodeTreq 0x5_0000000000000000#67 = .error (.reservedPrim 5#3) ∧
    decodeTreq 0x7_0000000000000000#67 = .error (.reservedPrim 7#3) ∧
    decodeTreq 0x0_0000000000000001#67 = .error (.reservedTarg 1#64) ∧
    decodeTreq 0x2_0000000000000144#67 = .error (.reservedTarg 0x144#64) := by decide

/-- R88: `kind` in bits 65:64. -/
theorem test_decode_tans :
    decodeTans 0x0_0000000000000050#66 = .ok (.tansDone 0x50#64) ∧
    decodeTans 0b01_0000000000000000000000000000000000000000000000000000000000000111#66 =
      .ok (.tansFail 7#64) ∧
    decodeTans 0x2_5666554433221128#66 = .ok (.tansItem addrA) ∧
    decodeTans 0x3_0000000000000000#66 = .error .reservedKind := by decide

/-- R84, R85: `status` in bits 27:24, `info` in 23:16, `data` in 15:0. -/
theorem test_decode_rsp :
    decodeRsp 0b0000_00000000_0000010101010000#28 = .ok (.rspOk 0#8 0x0550#16) ∧
    decodeRsp 0x1_00_1234#28 = .ok (.rspInvalid 0#8 0x1234#16) ∧
    decodeRsp 0x2_07_0000#28 = .ok (.rspTransportFail 0x07#8 0#16) ∧
    decodeRsp 0x3_00_0000#28 = .ok (.rspIllegalOp 0#8 0#16) ∧
    decodeRsp 0x4_00_0000#28 = .ok (.rspListOverflow 0#8 0#16) ∧
    decodeRsp 0x5_00_0000#28 = .error (.reservedStatus 5#4) ∧
    decodeRsp 0xF_00_0000#28 = .error (.reservedStatus 15#4) := by decide

/-- R89. -/
theorem test_decode_buscmd :
    decodeBuscmd 0b01000100#8 = .ok .cmdConvertT ∧
    decodeBuscmd 0b10111110#8 = .ok .cmdReadScratchpad ∧
    decodeBuscmd 0x00#8 = .error (.reservedBusByte 0x00#8) := by decide

theorem test_table_words :
    decodeTableWord 72 0x080000000000000000 = some (.crcclr 0#64) ∧
    decodeTableWord 67 0x30000000000000000 = some .tRead ∧
    decodeTableWord 66 0x20000000000000000 = some (.tansItem 0#64) ∧
    decodeTableWord 28 0x4000000 = some (.rspListOverflow 0#8 0#16) ∧
    decodeTableWord 8 0xBE = some .cmdReadScratchpad ∧
    decodeTableWord 8 0x1BE = none ∧ decodeTableWord 16 0 = none := by decide

/-- The bytes of `A` in address order are 28 11 22 33 44 55 66 56 (95_test_vectors.md). -/
theorem test_address_bytes :
    addrOfBytes #v[0x28#8, 0x11#8, 0x22#8, 0x33#8, 0x44#8, 0x55#8, 0x66#8, 0x56#8] = addrA := by decide

/-! ## The host operations, one step -/

theorem test_scan_accepted :
    (nextOf (step { stateAt .sIdle with cmds := [0x01_0000000000000005#72] })).map
      (fun t => (t.seq, t.op, t.arg, t.cmds)) = some (.sScan, 0x01#8, 5#64, []) := by decide

theorem test_convert_accepted :
    (nextOf (step { stateAt .sIdle with devidx := 2, cmds := [0x02_0000000000000000#72] })).map
      (fun t => (t.seq, t.devidx)) = some (.sConvReset, 0) := by decide

/-- `ceil(4 * 750 / 1000) = 3` (R7). -/
theorem test_wait_accepted :
    (nextOf (step { stateAt .sIdle with cmds := [0x03_0000000000000000#72] })).map
      (fun t => (t.seq, t.waitcnt)) = some (.sWait, 3) := by decide

theorem test_read_accepted :
    (nextOf (step { stateAt .sIdle with bytecnt := 4#4, cmds := [0x04_5666554433221128#72] })).map
      (fun t => (t.seq, t.arg, t.bytecnt)) = some (.sRdReset, addrA, 0#4) := by decide

/-- R113's example: `ACC = 0xDB` before. -/
theorem test_crcclr :
    (nextOf (step { stateAt .sIdle with acc := 0xDB#8, cmds := [0x08_0000000000000000#72] })).map
      (fun t => (t.acc, t.seq, t.rspValid, t.rsp)) =
      some (0x00#8, .sRespond, true, 0x0000000#28) := by decide

/-- V44a: only `arg[7:0]` is used; `0xDB ^ 0x05 = 0xDE` is loaded. -/
theorem test_crcbyte_accepted :
    (nextOf (step { stateAt .sIdle with acc := 0xDB#8, cmds := [0x09_FFFFFFFFFFFFFF05#72] })).map
      (fun t => (t.acc, t.bitcnt, t.seq)) = some (0xDE#8, 8#4, .sCrcRun) := by decide

/-- R114's example: after the XOR the accumulator goes from 0x50 to 0x28. -/
theorem test_crcbyte_bit_step :
    (nextOf (step { stateAt .sCrcRun with acc := 0x50#8, bitcnt := 8#4 })).map
      (fun t => (t.acc, t.bitcnt)) = some (0x28#8, 7#4) := by decide

/-- V38a. -/
theorem test_reserved_op :
    (nextOf (step { stateAt .sIdle with acc := 0x1C#8, cmds := [0x05_FFFFFFFFFFFFFFFF#72] })).map
      (fun t => (t.rsp, t.op, t.arg, t.acc, t.trace)) =
      some (0x3000000#28, 0x05#8, 0xFFFFFFFFFFFFFFFF#64, 0x1C#8, []) := by decide

/-- R130: a word offered while the block is busy is held. -/
theorem test_busy_holds_word :
    (nextOf (step { stateAt .sWait with waitcnt := 2, cmds := [0x08_0000000000000000#72] })).map
      (fun t => (t.cmds, t.waitcnt)) = some ([0x08_0000000000000000#72], 1) := by decide

/-! ## The transport port, one step -/

theorem test_t_reset :
    (nextOf (step (stateAt .sRdReset))).map (fun t => (t.port, t.trace)) =
      some (.waiting .reset [], [.req .reset]) := by decide

/-- R54: in `CONVERT` the address is that of entry `DEVIDX`. -/
theorem test_t_select_convert :
    (nextOf (step { stateAt .sConvSelect with devlist := [addrA, addrB], devidx := 1 })).map (·.port) =
      some (.waiting (.select addrB) []) := by decide

/-- R54, R136: in `READ` it is the operand, listed or not. -/
theorem test_t_select_read :
    (nextOf (step { stateAt .sRdSelect with devlist := [addrA], arg := addrX })).map (·.port) =
      some (.waiting (.select addrX) []) := by decide

theorem test_t_write :
    (nextOf (exec (.tWrite 0xBE#8) (stateAt .sRdWrite))).map (·.port) =
      some (.waiting (.write 0xBE#8) []) := by decide

theorem test_cmd_convert_t :
    (nextOf (step (stateAt .sConvWrite))).map (·.trace) = some [.req (.write 0x44#8)] ∧
    (nextOf (exec .cmdConvertT (stateAt .sConvWrite))).map (·.trace) =
      some [.req (.write 0x44#8)] := by decide

theorem test_cmd_read_scratchpad :
    (nextOf (step (stateAt .sRdWrite))).map (·.trace) = some [.req (.write 0xBE#8)] ∧
    (nextOf (exec .cmdReadScratchpad (stateAt .sRdWrite))).map (·.trace) =
      some [.req (.write 0xBE#8)] := by decide

/-- R138: never a tenth read. -/
theorem test_t_read :
    (nextOf (step { stateAt .sRdBytes with bytecnt := 8#4 })).map (·.port) =
      some (.waiting .read []) ∧
    (nextOf (step { stateAt .sRdBytes with bytecnt := 9#4 })).map (·.port) = some .free := by decide

theorem test_t_scan :
    (nextOf (step (stateAt .sScan))).map (·.port) = some (.waiting .scan []) := by decide

/-- The ninth byte of V28 arrives: it goes to `SP[8]`. -/
theorem test_done_read :
    (nextOf (step { waitingAt .sRdBytes .read with
      bytecnt := 8#4, tans := [0x0_FFFFFFFFFFFFFF1C#66] })).map
        (fun t => (t.sp[8], t.sp[7], t.bytecnt, t.port)) = some (0x1C#8, 0x00#8, 9#4, .free) := by
  decide

/-- P3 line 3: `[A, B]` is replaced by `[X]`. -/
theorem test_done_scan :
    (nextOf (exec (.tansDone 0#64)
      { stateAt .sScan with devlist := [addrA, addrB], port := .waiting .scan [addrX] })).map
        (fun t => (t.devlist, t.rsp)) = some ([addrX], 0x0000001#28) := by decide

/-- V43. -/
theorem test_done_scan_overflow :
    (nextOf (exec (.tansDone 0#64)
      { stateAt .sScan with devlist := [addrA], port := .waiting .scan [addrA, addrB, addrX] })).map
        (fun t => (t.devlist, t.rsp)) = some ([addrA], 0x4000000#28) := by decide

/-- V39, the last answer: a code of 0x07, the upper bits ignored. -/
theorem test_fail_convert :
    (nextOf (step { waitingAt .sConvSelect (.select addrB) with
      devlist := [addrA, addrB], devidx := 1, tans := [0x1_0000000000000107#66] })).map
        (fun t => (t.rsp, t.devlist, t.port, t.seq)) =
      some (0x2070000#28, [addrA, addrB], .free, .sRespond) := by decide

theorem test_item_scan :
    (nextOf (step { stateAt .sScan with
      port := .waiting .scan [addrA], tans := [0x2_6701EEDDCCBBAA28#66] })).map (·.port) =
      some (.waiting .scan [addrA, addrB]) := by decide

/-- R52: the answer to a request comes after it. -/
theorem test_answer_comes :
    (nextOf (step { stateAt .sRdReset with answers := [[doneBeat 1#64], [failBeat 2#64]] })).map
      (fun t => (t.port, t.tans, t.answers)) =
      some (.waiting .reset [], [doneBeat 1#64], [[failBeat 2#64]]) := by decide

/-- R94: an `ITEM` beat in the answer to `T_RESET`, and a beat of kind 3. -/
theorem test_item_elsewhere_refused :
    refusalOf (step { waitingAt .sRdReset .reset with tans := [0x2_0000000000000000#66] }) =
      some .itemOutsideScan ∧
    refusalOf (step { waitingAt .sRdReset .reset with tans := [0x3_0000000000000000#66] }) =
      some .reservedBeatKind := by decide

/-! ## The responses, one step -/

theorem test_rsp_ok :
    (nextOf (step { stateAt .sRespond with rspValid := true, rsp := 0x0000550#28 })).map
      (fun t => (t.delivered, t.rspValid, t.seq)) = some ([0x0000550#28], false, .sIdle) := by decide

theorem test_rsp_invalid :
    (nextOf (exec (.rspInvalid 0#8 0x1234#16)
      { stateAt .sRespond with rspValid := true, rsp := 0x1001234#28 })).map
        (fun t => (t.delivered, t.seq)) = some ([0x1001234#28], .sIdle) := by decide

theorem test_rsp_transport_fail :
    (nextOf (exec (.rspTransportFail 0xE1#8 0#16)
      { stateAt .sRespond with rspValid := true, rsp := 0x2E10000#28 })).map
        (fun t => (t.delivered, t.seq)) = some ([0x2E10000#28], .sIdle) := by decide

theorem test_rsp_illegal_op :
    (nextOf (exec (.rspIllegalOp 0#8 0#16)
      { stateAt .sRespond with rspValid := true, rsp := 0x3000000#28 })).map (·.seq) =
        some .sIdle := by decide

theorem test_rsp_list_overflow :
    (nextOf (exec (.rspListOverflow 0#8 0#16)
      { stateAt .sRespond with rspValid := true, rsp := 0x4000000#28 })).map (·.seq) =
        some .sIdle := by decide

/-- R132: until the host takes the word the block stays in `S_RESPOND`. -/
theorem test_rsp_held :
    (nextOf (step { stateAt .sRespond with rspReady := false, rspValid := true })).map
      (fun t => (t.seq, t.rspValid, t.delivered)) = some (.sRespond, true, []) := by decide

/-! ## The engine's own steps -/

/-- V28: the CRC matches and `T_RAW = 0x0550`. -/
theorem test_check_valid :
    (nextOf (step { stateAt .sRdCheck with acc := 0x1C#8, sp := spV28 })).map
      (fun t => (t.rsp, t.acc)) = some (0x0000550#28, 0x1C#8) := by decide

/-- V30: one bit of the CRC byte wrong. -/
theorem test_check_invalid :
    (nextOf (step { stateAt .sRdCheck with acc := 0x1C#8, sp := spV28.set 8 0x1D#8 })).map
      (fun t => (t.seq, t.rspValid, t.acc)) = some (.sRespond, true, 0x1C#8) := by decide

/-- V37: nothing to convert. -/
theorem test_convert_empty :
    (nextOf (step (stateAt .sConvReset))).map (fun t => (t.rsp, t.rspValid, t.trace)) =
      some (0x0000000#28, true, []) := by decide

theorem test_wait_ends :
    (nextOf (step (stateAt .sWait))).map (fun t => (t.seq, t.rsp)) = some (.sRespond, 0#28) := by decide

/-- R192: a waiting response is discarded, the outstanding request abandoned with its answer. -/
theorem test_reset_step :
    (nextOf (step { waitingAt .sScan .scan with
      rst := true, devlist := [addrA], acc := 0x1C#8, rspValid := true, tans := [itemBeat addrA] })).map
        (fun t => (t.devlist, t.rspValid, t.port, t.abandoned)) =
      some ([], false, .free, [⟨.scan, [itemBeat addrA]⟩]) := by decide

/-- R192: with a new request outstanding, the late `DONE` of an abandoned scan answers nothing. -/
theorem test_late_answer_ignored :
    (nextOf (step { waitingAt .sRdReset .reset with abandoned := [⟨.scan, [doneBeat 0#64]⟩] })).map
      (fun t => (t.port, t.seq, t.abandoned, t.trace)) =
      some (.waiting .reset [], .sRdReset, [], [.late (doneBeat 0#64)]) := by decide

/-- R192: so does an item of its answer before the last beat comes. -/
theorem test_late_item_ignored :
    (nextOf (step { waitingAt .sScan .scan with abandoned := [⟨.scan, [itemBeat addrA]⟩] })).map
      (fun t => (t.port, t.abandoned, t.tans)) =
      some (.waiting .scan [], [⟨.scan, []⟩], []) := by decide

/-- R94, U9: of two `DONE` beats in one answer the second is refused, in the state the first leaves. -/
theorem test_second_final_beat_refused :
    (nextOf (step { waitingAt .sRdReset .reset with tans := [doneBeat 0#64, doneBeat 0#64] })).map
      (fun t => (t.seq, refusalOf (step t))) = some (.sRdSelect, some .strayBeat) := by decide

/-- R94: the same in a late answer, and an `ITEM` in the late answer to `T_READ`. -/
theorem test_late_breach_refused :
    refusalOf (step { stateAt .sIdle with abandoned := [⟨.read, [doneBeat 0#64, doneBeat 0#64]⟩] }) =
      some .strayBeat ∧
    refusalOf (step { stateAt .sIdle with abandoned := [⟨.read, [itemBeat addrA]⟩] }) =
      some .itemOutsideScan := by decide

/-! ## The CRC unit and the temperature -/

/-- V40a, V40b, V40d, V40e, V40h. -/
theorem test_crc_bit :
    crcBit 0x01#8 = 0x8C#8 ∧ crcBit 0x02#8 = 0x01#8 ∧ crcBit 0x81#8 = 0xCC#8 ∧
    crcBit 0xFF#8 = 0xF3#8 ∧ crcBit 0x19#8 = 0x80#8 := by decide

/-- V4, V10, V10a, V11a, V11f: order matters, trailing zeros count, other lengths. -/
theorem test_crc8 :
    crc8 [0x01#8] = 0x5E#8 ∧ crc8 [0x01#8, 0x02#8] = 0x78#8 ∧ crc8 [0x02#8, 0x01#8] = 0xCF#8 ∧
    crc8 [0x01#8, 0x00#8] = 0xC4#8 ∧
    crc8 [0x02#8, 0x1C#8, 0xB8#8, 0x01#8, 0x00#8, 0x00#8, 0x00#8] = 0xA2#8 := by
  simp [crc8, crcByte, crcBits, crcBit, Config.crcInit, Config.crcPolyReflected]

/-- V22, V26, V27. -/
theorem test_sint16 :
    sint16 0xFF6F#16 = -145 ∧ sint16 0x7FFF#16 = 32767 ∧ sint16 0x8000#16 = -32768 := by
  simp [sint16]

/-- V14: the bytes 91 01. -/
theorem test_t_raw : tRaw (spV28.set 0 0x91#8 |>.set 1 0x01#8) = 0x0191#16 := by decide

/-- P2: register reads after a scan that found A and B. -/
theorem test_window :
    windowRead 0 { stateAt .sIdle with devlist := [addrA, addrB] } 0x001 = 2#64 ∧
    windowRead 0 { stateAt .sIdle with devlist := [addrA, addrB] } 0x101 = addrB ∧
    windowRead 0 { stateAt .sIdle with acc := 0x1C#8 } 0x002 = 0x1C#64 ∧
    windowRead 0 { stateAt .sRespond with rspValid := true } 0x000 = 3#64 ∧
    windowRead 0 (stateAt .sIdle) 0x102 = 0#64 := by decide

/-! ## A placed word runs next -/

theorem test_place_cmd :
    (nextOf (step ((stateAt .sIdle).withFetchWord 72 0x010000000000000000))).map (·.seq) =
      some .sScan := by decide

theorem test_place_treq :
    (nextOf (step ((stateAt .sIdle).withFetchWord 67 0x30000000000000000))).map (·.trace) =
      some [.req .read] := by decide

theorem test_place_tans :
    (nextOf (step ((stateAt .sIdle).withFetchWord 66 0x20000000000000001))).map (·.port) =
      some (.waiting .scan [1#64]) := by decide

theorem test_place_rsp :
    (nextOf (step ((stateAt .sIdle).withFetchWord 28 0x4000000))).map (·.delivered) =
      some [0x4000000#28] := by decide

theorem test_place_buscmd :
    (nextOf (step ((stateAt .sIdle).withFetchWord 8 0x44))).map (·.trace) =
      some [.req (.write 0x44#8)] := by decide

/-! ## Witnesses: states and operands that meet the hypotheses of each statement -/

theorem witness_EncodeOfDecode :
    decode .cmd (0x04_5666554433221128#72 : CmdWord) = .ok (.read addrA) := by decide

theorem witness_StepRunsAcceptedCommand :
    Ready { stateAt .sIdle with cmds := [0x04_5666554433221128#72] } ∧
    decodeCmd 0x04_5666554433221128#72 = .ok (.read addrA) := ⟨isReady rfl, by decide⟩

theorem witness_StepRunsAnswerBeat :
    (waitingAt .sScan .scan).rst = false ∧
    noLateBeat { waitingAt .sScan .scan with tans := [itemBeat addrA] } ∧
    { waitingAt .sScan .scan with tans := [itemBeat addrA] }.tans = itemBeat addrA :: [] ∧
    decodeTans (itemBeat addrA) = .ok (.tansItem addrA) := ⟨rfl, isQuiet rfl, rfl, by decide⟩

theorem witness_StepRunsWaitingResponse :
    Running (stateAt .sRespond) ∧ (stateAt .sRespond).rspReady = true ∧
    decodeRsp { stateAt .sRespond with rsp := 0x4000000#28 }.rsp = .ok (.rspListOverflow 0#8 0#16) :=
  ⟨isRunning rfl, rfl, by decide⟩

/-- A state for each clause; `DEVIDX` one below `DEVCNT`, `BYTECNT` at 0 and at 8. -/
theorem witness_StepRunsEngineRequest :
    (∀ q : Seq, Running (stateAt q)) ∧
    { stateAt .sConvReset with devlist := [addrA] }.devidx ≠
      { stateAt .sConvReset with devlist := [addrA] }.devcnt ∧
    { stateAt .sConvSelect with devlist := [addrA] }.devlist[0]? = some addrA ∧
    (stateAt .sRdBytes).bytecnt < 9#4 ∧ { stateAt .sRdBytes with bytecnt := 8#4 }.bytecnt < 9#4 :=
  ⟨fun _ => isRunning rfl, by decide, by decide, by decide, by decide⟩

theorem witness_PlacedCommandRuns :
    decodeCmd 0x09_0000000000000050#72 = .ok (.crcbyte 0#56 0x50#8) := by decide

theorem witness_CommandAccepted :
    (stateAt .sIdle).seq = .sIdle ∧
    (∀ (op : Byte) (x : BitVec 64), Ready { stateAt .sIdle with cmds := [cmdWord op x] } ∧
      { stateAt .sIdle with cmds := [cmdWord op x] }.cmds = cmdWord op x :: []) ∧
    (∀ op ∈ [0x00#8, 0x05#8, 0x07#8, 0x0A#8, 0xFF#8],
      opAssigned (cmdOp (cmdWord op 0#64)) = false) ∧
    (stateAt .sWait).seq ≠ .sIdle ∧ (Instr.scan 0#64).format = .cmd ∧
    ∃ t, step (stateAt .sWait) = .next t :=
  ⟨rfl, fun _ _ => ⟨isReady rfl, rfl⟩, by decide, by decide, rfl, _, rfl⟩

/-- Both ends of each reserved range. -/
theorem witness_ReservedOpAnswered :
    Ready (stateAt .sIdle) ∧
    ∀ op ∈ [0x00#8, 0x05#8, 0x07#8, 0x0A#8, 0xFF#8],
      op = 0x00#8 ∨ (0x05#8 ≤ op ∧ op ≤ 0x07#8) ∨ 0x0A#8 ≤ op := ⟨isReady rfl, by decide⟩

theorem witness_RequestsIssued :
    (stateAt .sRdReset).port = .free ∧
    ∃ u, u = { stateAt .sRdReset with
      tans := (stateAt .sRdReset).tans ++ (stateAt .sRdReset).answers.headD []
      answers := (stateAt .sRdReset).answers.tail } := ⟨rfl, _, rfl⟩

theorem witness_OneRequestOutstanding :
    (waitingAt .sRdBytes .read).port = .waiting .read [] ∧ requestOf .tReset = some .reset ∧
    (waitingAt .sRdBytes .read).rst = false ∧ noLateBeat (waitingAt .sRdBytes .read) ∧
    (waitingAt .sRdBytes .read).tans = [] := ⟨rfl, rfl, rfl, isQuiet rfl, rfl⟩

theorem witness_DoneContinuesOperation :
    ∀ q ∈ [Seq.sConvReset, .sConvSelect, .sConvWrite, .sRdReset, .sRdSelect, .sRdWrite],
      (waitingAt q .reset).port = .waiting .reset [] ∧ (waitingAt q .reset).seq = q := by decide

/-- `BYTECNT` at 0 and at 8. -/
theorem witness_ReadByteStored :
    ∀ n ∈ [0#4, 8#4], (waitingAt .sRdBytes .read).port = .waiting .read [] ∧
      { waitingAt .sRdBytes .read with bytecnt := n }.bytecnt < 9#4 := by decide

/-- With `MAX_DEV = 2`: an answer of two addresses, and one of three. -/
theorem witness_ScanReplacesList :
    { stateAt .sScan with port := .waiting .scan [addrA, addrB] }.port =
      .waiting .scan [addrA, addrB] ∧ (stateAt .sScan).seq = .sScan ∧
    (∀ m, (stateAt .sScan).cfg.maxDev = some m → [addrA, addrB].length ≤ m) ∧
    (stateAt .sScan).cfg.maxDev = some 2 ∧ 2 < [addrA, addrB, addrX].length :=
  ⟨rfl, rfl, fun m h => by cases h; decide, rfl, by decide⟩

theorem witness_FailAbortsOperation :
    (waitingAt .sConvWrite (.write 0x44#8)).port = .waiting (.write 0x44#8) [] ∧
    (waitingAt .sConvWrite (.write 0x44#8)).seq ∈
      [Seq.sScan, .sConvReset, .sConvSelect, .sConvWrite, .sRdReset, .sRdSelect, .sRdWrite,
        .sRdBytes] := by decide

theorem witness_ScanItemsKeptInOrder : (waitingAt .sScan .scan).port = .waiting .scan [] := rfl

/-- A request outstanding, and none; a beat of each kind. -/
theorem witness_ContractBreachesRefused :
    (∀ w, { waitingAt .sRdReset .reset with tans := [w] }.rst = false ∧
      noLateBeat { waitingAt .sRdReset .reset with tans := [w] } ∧
      { waitingAt .sRdReset .reset with tans := [w] }.tans = w :: [] ∧
      { waitingAt .sRdReset .reset with tans := [w] }.port = .waiting .reset []) ∧
    (∀ w, noLateBeat { stateAt .sRdReset with tans := [w] } ∧
      { stateAt .sRdReset with tans := [w] }.port = .free) ∧
    tansKind 0x3_0000000000000000#66 = 3#2 ∧ tansKind (itemBeat addrA) = 2#2 ∧
    tansKind (doneBeat 0#64) ≠ 3#2 ∧ tansKind (failBeat 0#64) ≠ 3#2 ∧ Request.reset ≠ .scan :=
  ⟨fun _ => ⟨rfl, isQuiet rfl, rfl, rfl⟩, fun _ => ⟨isQuiet rfl, rfl⟩, by decide⟩

/-- Two final beats, in an operation that goes on after the first. -/
theorem witness_SecondFinalBeatRefused :
    (waitingAt .sRdReset .reset).rst = false ∧
    noLateBeat { waitingAt .sRdReset .reset with tans := [doneBeat 0#64, failBeat 1#64] } ∧
    (waitingAt .sRdReset .reset).port = .waiting .reset [] ∧ tansKind (doneBeat 0#64) ≠ 2#2 ∧
    tansKind (failBeat 1#64) ≠ 3#2 ∧
    ∃ t, step { waitingAt .sRdReset .reset with tans := [doneBeat 0#64, failBeat 1#64] } = .next t :=
  ⟨rfl, isQuiet rfl, rfl, by decide, by decide, _, rfl⟩

theorem witness_OnlyTwoBytesWritten : ∃ t, step (stateAt .sConvWrite) = .next t := ⟨_, rfl⟩

/-- An empty list, and the end of a list of one. -/
theorem witness_ConvertEndsAtListEnd :
    Running (stateAt .sConvReset) ∧ (stateAt .sConvReset).devidx = (stateAt .sConvReset).devcnt ∧
    { stateAt .sConvReset with devlist := [addrA], devidx := 1 }.devidx =
      { stateAt .sConvReset with devlist := [addrA], devidx := 1 }.devcnt := ⟨isRunning rfl, rfl, rfl⟩

theorem witness_WaitTick :
    Running (stateAt .sWait) ∧ 0 < { stateAt .sWait with waitcnt := 1 }.waitcnt ∧
    (stateAt .sWait).waitcnt = 0 := ⟨isRunning rfl, by decide, rfl⟩

/-- `BITCNT` at 1 and 0, `BYTECNT` at 9, at 7 and at 8. -/
theorem witness_CrcUnitSteps :
    Running (stateAt .sCrcRun) ∧ Running (stateAt .sRdBytes) ∧ Running (stateAt .sRdCrc) ∧
    0#4 < { stateAt .sCrcRun with bitcnt := 1#4 }.bitcnt ∧ (stateAt .sCrcRun).bitcnt = 0#4 ∧
    9#4 ≤ { stateAt .sRdBytes with bytecnt := 9#4 }.bytecnt ∧
    0#4 < { stateAt .sRdCrc with bitcnt := 1#4 }.bitcnt ∧
    (stateAt .sRdCrc).bytecnt = BitVec.ofNat 4 0 ∧
    { stateAt .sRdCrc with bytecnt := 7#4 }.bytecnt = BitVec.ofNat 4 7 ∧
    8#4 ≤ { stateAt .sRdCrc with bytecnt := 8#4 }.bytecnt :=
  ⟨isRunning rfl, isRunning rfl, isRunning rfl, by decide⟩

theorem witness_CheckDecidesValidity :
    Running (stateAt .sRdCheck) ∧
    { stateAt .sRdCheck with acc := 0x1C#8, sp := spV28 }.acc =
      { stateAt .sRdCheck with acc := 0x1C#8, sp := spV28 }.sp[8] ∧
    { stateAt .sRdCheck with acc := 0x1D#8, sp := spV28 }.acc ≠
      { stateAt .sRdCheck with acc := 0x1D#8, sp := spV28 }.sp[8] := ⟨isRunning rfl, by decide⟩

theorem witness_ResponseDelivered :
    (∀ (st : Status) (i : Byte) (d : BitVec 16),
      { stateAt .sRespond with rsp := rspWord st i d }.rspReady = true ∧
      { stateAt .sRespond with rsp := rspWord st i d }.rsp = rspWord st i d) ∧
    Running { stateAt .sRespond with rspReady := false } := ⟨fun _ _ _ => ⟨rfl, rfl⟩, isRunning rfl⟩

/-- A state of a `SCAN` that waits for its answer meets the invariant. -/
theorem scan_state_inv (beats : List TansWord) (items : List Addr) :
    Inv { waitingAt .sScan .scan with
      op := 0x01#8, devlist := [addrA], tans := beats, port := .waiting .scan items } where
  bitcnt_le := by change 0#4 ≤ 8#4; decide
  bitcnt_zero := fun _ _ => rfl
  bytecnt_le := by change 0#4 ≤ 9#4; decide
  list_fits := rfl
  devidx_in_range := trivial
  seq_matches_op := rfl
  waitcnt_le := Nat.zero_le _
  rsp_valid_iff := by constructor <;> intro h <;> cases h
  rsp_well_formed := ⟨.rspOk 0#8 0#16, by change decodeRsp 0#28 = _; decide, rfl⟩
  outcome_allowed := fun h => by cases h
  port_matches := rfl
  crc_in_progress := trivial
  cfg_wf := rfl

theorem witness_OneResponsePerCommand :
    Inv { waitingAt .sScan .scan with
      op := 0x01#8, devlist := [addrA], tans := [doneBeat 0#64], port := .waiting .scan [] } ∧
    (waitingAt .sScan .scan).rst = false ∧
    ∃ t, step { waitingAt .sScan .scan with
      op := 0x01#8, devlist := [addrA], tans := [doneBeat 0#64], port := .waiting .scan [] } =
        .next t := ⟨scan_state_inv _ _, rfl, _, rfl⟩

theorem witness_InputsKeepInvariant :
    Inv { waitingAt .sScan .scan with
      op := 0x01#8, devlist := [addrA], tans := [], port := .waiting .scan [] } :=
  scan_state_inv _ _

theorem witness_StepKeepsInvariant :
    Inv { waitingAt .sScan .scan with
      op := 0x01#8, devlist := [addrA], tans := [failBeat 7#64], port := .waiting .scan [addrB] } ∧
    ∃ t, step { waitingAt .sScan .scan with
      op := 0x01#8, devlist := [addrA], tans := [failBeat 7#64], port := .waiting .scan [addrB] } =
        .next t := ⟨scan_state_inv _ _, _, rfl⟩

theorem witness_NoStopUnderContract :
    Inv { waitingAt .sScan .scan with
      op := 0x01#8, devlist := [addrA], tans := [itemBeat addrB], port := .waiting .scan [] } ∧
    transportKeepsContract { waitingAt .sScan .scan with
      op := 0x01#8, devlist := [addrA], tans := [itemBeat addrB], port := .waiting .scan [] } :=
  ⟨scan_state_inv _ _, (by intro a h; cases h), rfl, trivial⟩

/-- The list changes at the answer's `DONE`. -/
theorem witness_ListChangedOnlyByScan :
    (waitingAt .sScan .scan).rst = false ∧
    ∃ t, step { waitingAt .sScan .scan with tans := [doneBeat 0#64], devlist := [addrA] } = .next t ∧
      t.devlist ≠ [addrA] := ⟨rfl, _, rfl, by decide⟩

theorem witness_AccumulatorWriters :
    (stateAt .sCrcRun).rst = false ∧
    ∃ t, step { stateAt .sCrcRun with acc := 1#8, bitcnt := 1#4 } = .next t ∧ t.acc ≠ 1#8 :=
  ⟨rfl, _, rfl, by decide⟩

theorem witness_ResetEndsOperation :
    { waitingAt .sScan .scan with rst := true }.rst = true ∧
    { waitingAt .sScan .scan with rst := true }.port = .waiting .scan [] ∧
    { stateAt .sIdle with rst := true }.port = .free := by decide

/-- A scan's answer of two beats, an item whose last beat has not come, a failure of a read; each after a
request that never answers, and the first two cut short by a reset after one item. -/
theorem witness_AbandonedAnswerIgnored :
    (([addrA] : List Addr) = [] ∨ Request.scan = .scan) ∧
    (([] : List Addr) = [] ∨ Request.read = .scan) ∧
    (([] : List TansWord) = [] ∨ ∃ d, [] = [doneBeat d] ∨ [] = [failBeat d]) ∧
    ([doneBeat 0#64] = [] ∨ ∃ d, [doneBeat 0#64] = [doneBeat d] ∨ [doneBeat 0#64] = [failBeat d]) ∧
    ([failBeat 7#64] = [] ∨ ∃ d, [failBeat 7#64] = [doneBeat d] ∨ [failBeat 7#64] = [failBeat d]) ∧
    (∀ beats, { stateAt .sIdle with abandoned := [⟨.read, []⟩, ⟨.scan, beats⟩] }.abandoned =
      [⟨.read, []⟩] ++ ⟨.scan, beats⟩ :: []) ∧
    (stateAt .sIdle).rst = false ∧ (∀ a ∈ [(⟨.read, []⟩ : Abandoned)], a.beats = []) ∧
    { waitingAt .sScan .scan with rst := true, tans := [itemBeat addrA] }.rst = true ∧
    noLateBeat { waitingAt .sScan .scan with rst := true, tans := [itemBeat addrA] } ∧
    { waitingAt .sScan .scan with rst := true, tans := [itemBeat addrA] }.port = .waiting .scan [] ∧
    { waitingAt .sScan .scan with rst := true, tans := [itemBeat addrA] }.tans ++ [doneBeat 0#64] =
      [addrA].map itemBeat ++ [doneBeat 0#64] ∧
    { waitingAt .sScan .scan with rst := true, tans := [itemBeat addrA] }.tans ++ [] =
      [addrA].map itemBeat ++ [] :=
  ⟨.inr rfl, .inl rfl, .inl rfl, .inr ⟨_, .inl rfl⟩, .inr ⟨_, .inr rfl⟩, fun _ => rfl, rfl, by simp, rfl,
    isQuiet rfl, rfl, rfl, rfl⟩

/-- A late item whose last beat has not come, and a late `DONE` and `FAIL`. -/
theorem witness_LateBeatIgnored :
    (stateAt .sIdle).rst = false ∧ (∀ a ∈ [(⟨.read, []⟩ : Abandoned)], a.beats = []) ∧
    (∀ r w ws, { stateAt .sIdle with abandoned := [⟨.read, []⟩, ⟨r, w :: ws⟩] }.abandoned =
      [⟨.read, []⟩] ++ ⟨r, w :: ws⟩ :: []) ∧
    answerAllowed .scan [itemBeat addrA] ∧ answerAllowed .scan [itemBeat addrA, doneBeat 0#64] ∧
    answerAllowed .read [doneBeat 0#64] ∧ answerAllowed .reset [failBeat 7#64] :=
  ⟨rfl, by simp, fun _ _ _ => rfl,
    by simp [answerAllowed, itemBeat, doneBeat, failBeat]⟩

/-- Bits 0, 1, 2 and 63. -/
theorem witness_StatusRegister : ∀ n ∈ [0, 1, 2, 63], n < 64 := by decide

/-- The first and the last entry of a full list. -/
theorem witness_DeviceAddressRegisters :
    0 < { stateAt .sIdle with devlist := [addrA, addrB] }.devlist.length ∧
    1 < { stateAt .sIdle with devlist := [addrA, addrB] }.devlist.length ∧
    ∀ m, (stateAt .sIdle).cfg.maxDev = some m → [addrA, addrB].length ≤ m :=
  ⟨by decide, by decide, fun m h => by cases h; decide⟩

/-- Addresses 0x003, 0x0FF, and the first after `DEVADDR[1]` with `MAX_DEV = 2`. -/
theorem witness_WindowReservedAndReadOnly :
    0x003 ≤ 0x003 ∧ 0x003 ≤ 0x0FF ∧ 0x0FF ≤ 0x0FF ∧
    (stateAt .sIdle).cfg.maxDev = some 2 ∧ 0x100 + 2 ≤ 0x102 := by decide

theorem witness_ResidueIsZero : (List.replicate 8 0x50#8).length = 8 := by decide

theorem witness_CrcLinear : [0x01#8, 0x02#8].length = [0x80#8, 0xFF#8].length := by decide

/-- V28, and the two ends of the 72 bit positions. -/
theorem witness_OneAndTwoBitErrorsCaught :
    scratchpadValid spV28 ∧ 0 < 72 ∧ 71 < 72 ∧ 0 ≠ 71 := by
  refine ⟨?_, by decide⟩
  simp [scratchpadValid, crcCovered, spV28, crc8, crcByte, crcBits, crcBit, Config.crcInit,
    Config.crcPolyReflected]

theorem witness_CrcbyteComputes :
    Ready { stateAt .sIdle with cmds := [cmdWord 0x09#8 (0#56 ++ 0x1C#8)] } := isReady rfl

theorem witness_CrcSequenceComputes :
    Ready { stateAt .sIdle with cmds := assemble [.crc8 [0x50#8, 0x05#8]] ++ [] } ∧
    (stateAt .sIdle).rspReady = true := ⟨isReady rfl, rfl⟩

/-- An answer that fits, one that is too long for `MAX_DEV = 2`, and a failure. -/
theorem witness_ScanComputes :
    (∀ l, Ready { stateAt .sIdle with cmds := [cmdWord 0x01#8 0#64], answers := l }) ∧
    (∀ m, (stateAt .sIdle).cfg.maxDev = some m → [addrA, addrB].length ≤ m) ∧
    (stateAt .sIdle).cfg.maxDev = some 2 ∧ 2 < [addrA, addrB, addrX].length ∧
    { stateAt .sIdle with answers := [[itemBeat addrA, failBeat 1#64]] }.answers =
      ([addrA].map itemBeat ++ [failBeat 1#64]) :: [] :=
  ⟨fun _ => isReady rfl, fun m h => by cases h; decide, rfl, by decide, rfl⟩

/-- A list of one with three answers, and the failure of the last of them. -/
theorem witness_ConvertComputes :
    (∀ l, Ready { stateAt .sIdle with
      devlist := [addrA], cmds := [cmdWord 0x02#8 0#64], answers := l }) ∧
    [1#64, 2#64, 3#64].length = 3 * { stateAt .sIdle with devlist := [addrA] }.devcnt ∧
    [1#64, 2#64].length < 3 * { stateAt .sIdle with devlist := [addrA] }.devcnt ∧
    [1#64, 2#64, 3#64].map doneAnswer ++ [] = [[doneBeat 1#64], [doneBeat 2#64], [doneBeat 3#64]] ∧
    [1#64, 2#64].map doneAnswer ++ [failBeat 7#64] :: [] =
      [[doneBeat 1#64], [doneBeat 2#64], [failBeat 7#64]] :=
  ⟨fun _ => isReady rfl, rfl, by decide, rfl, rfl⟩

/-- The first tick and the last, with `WAIT_TICKS = 3`. -/
theorem witness_WaitRunsItsTicks :
    Ready { stateAt .sIdle with cmds := [cmdWord 0x03#8 0#64] } ∧
    0 ≤ waitTicks (stateAt .sIdle).cfg ∧ 3 ≤ waitTicks (stateAt .sIdle).cfg :=
  ⟨isReady rfl, by decide, by decide⟩

/-- The nine bytes of V28, valid; nine bytes 0xFF, not valid (V33); no answer done, and eleven, before a
failure. -/
theorem witness_ReadComputes :
    (∀ l, Ready { stateAt .sIdle with cmds := [cmdWord 0x04#8 addrA], answers := l }) ∧
    spV28 = #v[0x50#64, 0x05#64, 0x4B#64, 0x46#64, 0x7F#64, 0xFF#64, 0x0C#64, 0x10#64, 0xFF1C#64].map
      (fun d => d.setWidth 8) ∧
    scratchpadValid spV28 ∧ ¬ scratchpadValid (Vector.replicate 9 0xFF#8) ∧
    ([] : List (BitVec 64)).length < 12 ∧ (List.replicate 11 0#64).length < 12 := by
  refine ⟨fun _ => isReady rfl, by simp [spV28], ?_, ?_, by decide, by decide⟩ <;>
    simp [scratchpadValid, crcCovered, spV28, crc8, crcByte, crcBits, crcBit, Config.crcInit,
      Config.crcPolyReflected, List.replicate]

/-- Two blocks in different states, the same twelve answers; and the same failure. -/
theorem witness_ReadsIndependent :
    Ready { stateAt .sIdle with cmds := [cmdWord 0x04#8 addrA] } ∧
    Ready { stateAt .sIdle with acc := 0x5E#8, cmds := [cmdWord 0x04#8 addrX], devlist := [addrB] } ∧
    readAnswers ((List.replicate 12 0#64).map doneAnswer) ∧
    readAnswers ([0#64].map doneAnswer ++ [[failBeat 2#64]]) :=
  ⟨isReady rfl, isReady rfl, .inl ⟨_, rfl, rfl⟩, .inr ⟨_, _, by decide, rfl⟩⟩

/-- A block that runs an operation by itself meets the invariant, if the operation names the state, no CRC
is under way and the list is at its start. -/
theorem engine_state_inv (q : Seq) (o x : Byte) (sp : Vector Byte 9) (l : List CmdWord)
    (hr : q ≠ .sRespond) (ho : seqMatchesOp { stateAt q with op := o }) (hd : devidxInRange (stateAt q))
    (hc : crcInProgress { stateAt q with acc := x, sp := sp }) :
    Inv { stateAt q with op := o, acc := x, sp := sp, cmds := l } where
  bitcnt_le := by change 0#4 ≤ 8#4; decide
  bitcnt_zero := fun _ _ => rfl
  bytecnt_le := by change 0#4 ≤ 9#4; decide
  list_fits := rfl
  devidx_in_range := hd
  seq_matches_op := ho
  waitcnt_le := Nat.zero_le _
  rsp_valid_iff := ⟨fun h => (by cases h), fun h => absurd h hr⟩
  rsp_well_formed := ⟨.rspOk 0#8 0#16, by change decodeRsp 0#28 = _; decide, rfl⟩
  outcome_allowed := fun h => absurd h hr
  port_matches := trivial
  crc_in_progress := hc
  cfg_wf := rfl

/-- A scan that overflows, and one that fails. -/
theorem witness_OutcomesHaveTheirCauses :
    (Inv { waitingAt .sScan .scan with
        op := 0x01#8, devlist := [addrA], tans := [doneBeat 0#64]
        port := .waiting .scan [addrA, addrB, addrX] } ∧
      ∃ t, step { waitingAt .sScan .scan with
        op := 0x01#8, devlist := [addrA], tans := [doneBeat 0#64]
        port := .waiting .scan [addrA, addrB, addrX] } = .next t ∧
          t.seq = .sRespond ∧ rspStatus t.rsp = 4#4) ∧
    (Inv { waitingAt .sScan .scan with
        op := 0x01#8, devlist := [addrA], tans := [failBeat 7#64], port := .waiting .scan [] } ∧
      ∃ t, step { waitingAt .sScan .scan with
        op := 0x01#8, devlist := [addrA], tans := [failBeat 7#64], port := .waiting .scan [] } =
          .next t ∧ t.seq = .sRespond ∧ rspStatus t.rsp = 2#4) :=
  ⟨⟨scan_state_inv _ _, _, rfl, rfl, by decide⟩, ⟨scan_state_inv _ _, _, rfl, rfl, by decide⟩⟩

/-- `OK` of a scan that fits, of a tick at 0, of the end of a list, of a byte that is done, of `CRCCLR`. -/
theorem witness_OutcomesHaveTheirCauses_ok :
    (Inv { waitingAt .sScan .scan with
        op := 0x01#8, devlist := [addrA], tans := [doneBeat 0#64]
        port := .waiting .scan [addrA, addrB] } ∧
      ∃ t, step { waitingAt .sScan .scan with
        op := 0x01#8, devlist := [addrA], tans := [doneBeat 0#64]
        port := .waiting .scan [addrA, addrB] } = .next t ∧
          t.seq = .sRespond ∧ rspStatus t.rsp = 0#4) ∧
    (∀ p ∈ [(Seq.sWait, 0x03#8), (.sConvReset, 0x02#8), (.sCrcRun, 0x09#8)],
      Inv { stateAt p.1 with op := p.2, acc := 0#8, sp := spAtReset, cmds := [] } ∧
      ∃ t, step { stateAt p.1 with op := p.2, acc := 0#8, sp := spAtReset, cmds := [] } = .next t ∧
        t.seq = .sRespond ∧ rspStatus t.rsp = 0#4) ∧
    (Inv { stateAt .sIdle with
        op := 0#8, acc := 0#8, sp := spAtReset, cmds := [cmdWord 0x08#8 0#64] } ∧
      ∃ t, step { stateAt .sIdle with
        op := 0#8, acc := 0#8, sp := spAtReset, cmds := [cmdWord 0x08#8 0#64] } = .next t ∧
          t.seq = .sRespond ∧ rspStatus t.rsp = 0#4) := by
  refine ⟨⟨scan_state_inv _ _, _, rfl, rfl, by decide⟩, ?_,
    engine_state_inv _ _ _ _ _ (by decide) trivial trivial trivial, _, rfl, rfl, by decide⟩
  simp only [List.forall_mem_cons]
  exact ⟨⟨engine_state_inv _ _ _ _ _ (by decide) rfl trivial trivial, _, rfl, rfl, by decide⟩,
    ⟨engine_state_inv _ _ _ _ _ (by decide) rfl (Nat.zero_le _) trivial, _, rfl, rfl, by decide⟩,
    ⟨engine_state_inv _ _ _ _ _ (by decide) rfl trivial trivial, _, rfl, rfl, by decide⟩, by simp⟩

/-- `OK` and `INVALID` of the check, on nine zero bytes and on eight zeros and a one; `ILLEGAL_OP` of the
word of op 0x05. -/
theorem witness_OutcomesHaveTheirCauses_check :
    (Inv { stateAt .sRdCheck with op := 0x04#8, acc := 0#8, sp := spAtReset, cmds := [] } ∧
      ∃ t, step { stateAt .sRdCheck with op := 0x04#8, acc := 0#8, sp := spAtReset, cmds := [] } =
        .next t ∧ t.seq = .sRespond ∧ rspStatus t.rsp = 0#4) ∧
    (Inv { stateAt .sRdCheck with
        op := 0x04#8, acc := 0#8, sp := #v[0, 0, 0, 0, 0, 0, 0, 0, 1], cmds := [] } ∧
      ∃ t, step { stateAt .sRdCheck with
        op := 0x04#8, acc := 0#8, sp := #v[0, 0, 0, 0, 0, 0, 0, 0, 1], cmds := [] } = .next t ∧
          t.seq = .sRespond ∧ rspStatus t.rsp = 1#4) ∧
    (Inv { stateAt .sIdle with
        op := 0#8, acc := 0#8, sp := spAtReset, cmds := [cmdWord 0x05#8 0#64] } ∧
      ∃ t, step { stateAt .sIdle with
        op := 0#8, acc := 0#8, sp := spAtReset, cmds := [cmdWord 0x05#8 0#64] } = .next t ∧
          t.seq = .sRespond ∧ rspStatus t.rsp = 3#4) := by
  refine ⟨⟨engine_state_inv _ _ _ _ _ (by decide) rfl trivial ?_, _, rfl, rfl, by decide⟩,
    ⟨engine_state_inv _ _ _ _ _ (by decide) rfl trivial ?_, _, rfl, rfl, ?_⟩,
    ⟨engine_state_inv _ _ _ _ _ (by decide) trivial trivial trivial, _, rfl, rfl, by decide⟩⟩
  · simp [crcInProgress, stateAt, crcCovered, spAtReset, crc8, crcByte, crcBits, crcBit, Config.crcInit]
  · simp [crcInProgress, stateAt, crcCovered, crc8, crcByte, crcBits, crcBit, Config.crcInit]
  · exact rspStatus_rspWord .invalid _ _

end Sys2Proof.Machine
end

section
/-! SUPPORT. The invariant of the block: what each shared operation needs to keep it, then every step. -/

namespace Sys2Proof.Machine

variable {s s' : State}

/-! ## The clauses of the invariant, each where `SEQ` or the port makes it easy -/

theorem portMatches_free (hp : s.port = .free) : portMatches s := by simp [portMatches, hp]

theorem devidxInRange_idle (hq : s.seq = .sIdle) : devidxInRange s := by simp [devidxInRange, hq]

theorem seqMatchesOp_idle (hq : s.seq = .sIdle) : seqMatchesOp s := by simp [seqMatchesOp, hq]

/-- Outside the CRC phase of `READ` no CRC is in progress (R139). -/
theorem crcInProgress_other {q : Seq} (hq : s.seq = q)
    (hn : q ≠ .sRdCrc ∧ q ≠ .sRdCheck := by decide) : crcInProgress s := by
  cases q <;> simp_all [crcInProgress]

/-- In the CRC phase, the iterations left on `ACC` give the CRC of the bytes fed so far (R139). -/
theorem crcInProgress_rdCrc (hq : s.seq = .sRdCrc) :
    crcInProgress s ↔ s.bytecnt ≤ 8#4 ∧
      crcBits s.bitcnt.toNat s.acc = crc8 ((crcCovered s.sp).take s.bytecnt.toNat) := by
  simp [crcInProgress, hq]

/-- No bit iteration is left over where `SEQ` is known to be outside the CRC states (R22). -/
theorem Inv.bitcnt_at {q : Seq} (h : Inv s) (hq : s.seq = q)
    (hn : q ≠ .sRdCrc ∧ q ≠ .sCrcRun := by decide) : s.bitcnt = 0#4 := by
  subst hq
  exact h.bitcnt_zero hn.1 hn.2

/-- The clause on `OP` where `SEQ` is known: it computes to an equation on `OP` (R27, R28). -/
theorem Inv.op_at {q : Seq} (h : Inv s) (hq : s.seq = q) : seqMatchesOp { s with seq := q } := by
  subst hq
  exact h.seq_matches_op

/-- The clause on `DEVIDX` where `SEQ` is known: it computes to a bound (R26). -/
theorem Inv.devidx_at {q : Seq} (h : Inv s) (hq : s.seq = q) :
    devidxInRange { s with seq := q } := by
  subst hq
  exact h.devidx_in_range

/-- The row of a response word with these fields (R85). -/
def responseRow : Status → Byte → BitVec 16 → Instr
  | .ok => .rspOk
  | .invalid => .rspInvalid
  | .transportFail => .rspTransportFail
  | .illegalOp => .rspIllegalOp
  | .listOverflow => .rspListOverflow

theorem decodeRsp_responseRow (st : Status) (i : Byte) (d : BitVec 16) :
    decodeRsp (rspWord st i d) = .ok (responseRow st i d) := by
  rw [decodeRsp_rspWord]
  cases st <;> rfl

/-! ## The invariant under each shared operation

Each lemma carries the invariant of the old state over and proves only the clauses that speak of what the
operation writes. -/

theorem Inv.closeRequest (h : Inv s) : Inv (closeRequest s) := { h with port_matches := trivial }

/-- An outcome is raised with no bit iteration left, no request outstanding, and a word that the
operation may end in (R31, R85). -/
theorem Inv.respond {st : Status} {i : Byte} {d : BitVec 16} (h : Inv s) (hb : s.bitcnt = 0#4)
    (hp : s.port = .free) (hw : (responseRow st i d).wellFormed = true)
    (ho : outcomeAllowed s.op (responseRow st i d) = true) : Inv (respond st i d s) :=
  { h with
    bitcnt_zero := fun _ _ => hb
    devidx_in_range := trivial
    seq_matches_op := trivial
    rsp_valid_iff := by simp
    rsp_well_formed := ⟨_, decodeRsp_responseRow st i d, hw⟩
    outcome_allowed := fun _ => ⟨_, decodeRsp_responseRow st i d, ho⟩
    port_matches := portMatches_free hp
    crc_in_progress := trivial }

theorem Inv.respondInvalid (h : Inv s) (hb : s.bitcnt = 0#4) (hp : s.port = .free)
    (ho : s.op = 0x04#8) : Inv (respondInvalid s) :=
  { h.respond (st := .invalid) (i := 0#8) (d := Config.freeData s.draws) hb hp rfl
      (by simp [responseRow, outcomeAllowed, ho]) with }

/-- The abort rule frees the port itself (R167). -/
theorem Inv.abortWith {st : Status} {i : Byte} (h : Inv s) (hb : s.bitcnt = 0#4)
    (hw : (responseRow st i 0#16).wellFormed = true)
    (ho : outcomeAllowed s.op (responseRow st i 0#16) = true) : Inv (abortWith st i s) :=
  h.closeRequest.respond hb rfl hw ho

theorem Inv.deliver (h : Inv s) (hq : s.seq = .sRespond) (hp : s.port = .free) : Inv (deliver s) :=
  { h with
    bitcnt_zero := fun _ _ => h.bitcnt_at hq
    devidx_in_range := trivial
    seq_matches_op := trivial
    rsp_valid_iff := by simp
    outcome_allowed := by simp
    port_matches := portMatches_free hp
    crc_in_progress := trivial }

/-- `SEQ` goes on to another state of an operation, with no bit iteration left and no request
outstanding (R27). -/
theorem Inv.goto {p : Seq} (h : Inv s) (hs : s.seq = p) (q : Seq) (hb : s.bitcnt = 0#4)
    (hp : s.port = .free) (hd : devidxInRange { s with seq := q })
    (ho : seqMatchesOp { s with seq := q }) (hc : crcInProgress { s with seq := q })
    (hn : p ≠ .sRespond ∧ q ≠ .sRespond := by decide) : Inv { s with seq := q } :=
  { h with
    bitcnt_zero := fun _ _ => hb
    devidx_in_range := hd
    seq_matches_op := ho
    rsp_valid_iff := h.rsp_valid_iff.trans (by simp [hs, hn.1, hn.2])
    outcome_allowed := fun he => absurd he hn.2
    port_matches := portMatches_free hp
    crc_in_progress := hc }

/-- `SEQ` goes on within the operation that `OP` names (R28). -/
theorem Inv.goOn {p : Seq} (h : Inv s) (hs : s.seq = p) (q : Seq) (hb : s.bitcnt = 0#4)
    (hp : s.port = .free) (hd : devidxInRange { s with seq := q })
    (hc : crcInProgress { s with seq := q })
    (ho : seqMatchesOp { s with seq := p } → seqMatchesOp { s with seq := q } := by exact id)
    (hn : p ≠ .sRespond ∧ q ≠ .sRespond := by decide) : Inv { s with seq := q } :=
  h.goto hs q hb hp hd (ho (h.op_at hs)) hc hn

/-! ## Acceptance of a command -/

/-- An idle block may latch any command (R28). -/
theorem Inv.latch (h : Inv s) (hq : s.seq = .sIdle) (hp : s.port = .free) (o : Byte)
    (a : BitVec 64) : Inv (latch o a s) :=
  { h with
    seq_matches_op := seqMatchesOp_idle hq
    outcome_allowed := by simp [hq]
    port_matches := portMatches_free hp }

theorem Inv.acceptIllegal (h : Inv s) (hq : s.seq = .sIdle) (hp : s.port = .free) {w : CmdWord}
    (hw : opAssigned (cmdOp w) = false) : Inv (acceptIllegal w s) :=
  (h.latch hq hp _ _).respond (h.bitcnt_at hq) hp rfl
    (by simp [responseRow, outcomeAllowed, hw])

/-- Each of the six operations begins in a good state (R130). -/
theorem Inv.accepted (h : Inv s) (hq : s.seq = .sIdle) (hp : s.port = .free) {w : CmdWord} {i : Instr}
    (hd : decodeCmd w = .ok i) : Inv (acceptedState w s i) := by
  have hb : s.bitcnt = 0#4 := h.bitcnt_at hq
  have hl : Inv (Machine.latch (cmdOp w) (cmdArg w) s) := h.latch hq hp _ _
  rcases decodeCmd_cases hd with
    ⟨ho, rfl⟩ | ⟨ho, rfl⟩ | ⟨ho, rfl⟩ | ⟨ho, rfl⟩ | ⟨ho, rfl⟩ | ⟨ho, rfl⟩
  · exact hl.goto hq .sScan hb hp trivial ho trivial
  · have h0 : Inv { Machine.latch (cmdOp w) (cmdArg w) s with devidx := 0 } :=
      { hl with devidx_in_range := devidxInRange_idle hq, port_matches := portMatches_free hp }
    exact h0.goto hq .sConvReset hb hp (Nat.zero_le _) ho trivial
  · have h0 : Inv { Machine.latch (cmdOp w) (cmdArg w) s with waitcnt := waitTicks s.cfg } :=
      { hl with waitcnt_le := Nat.le_refl _ }
    exact h0.goto hq .sWait hb hp trivial ho trivial
  · have h0 : Inv { Machine.latch (cmdOp w) (cmdArg w) s with bytecnt := 0#4 } :=
      { hl with
        bytecnt_le := by simp
        port_matches := portMatches_free hp
        crc_in_progress := crcInProgress_other hq }
    exact h0.goto hq .sRdReset hb hp trivial ho trivial
  · have h0 : Inv { Machine.latch (cmdOp w) (cmdArg w) s with acc := Config.crcInit, bitcnt := 0#4 } :=
      { hl with
        bitcnt_le := by simp
        bitcnt_zero := fun _ _ => rfl
        crc_in_progress := crcInProgress_other hq }
    exact h0.respond rfl hp rfl (by simp [responseRow, outcomeAllowed, opAssigned, ho])
  · exact { hl.goto hq .sCrcRun hb hp trivial ho trivial with
      bitcnt_le := by simp [acceptedState]
      bitcnt_zero := fun _ hr => absurd rfl hr
      crc_in_progress := trivial }

/-! ## The engine's own steps -/

theorem Inv.waitStep (h : Inv s) (hq : s.seq = .sWait) (hp : s.port = .free) : Inv (waitStep s) := by
  have ho : s.op = 0x03#8 := h.op_at hq
  unfold Machine.waitStep
  split
  next => exact { h with waitcnt_le := (Nat.sub_le _ _).trans h.waitcnt_le }
  next =>
    exact h.respond (h.bitcnt_at hq) hp rfl
      (by simp [responseRow, outcomeAllowed, opAssigned, ho])

/-- One iteration fewer is left after a bit step. -/
theorem crcBits_bitStep {n : BitVec 4} (hn : 0#4 < n) (a : Byte) :
    crcBits (n - 1#4).toNat (crcBit a) = crcBits n.toNat a := by
  have hs : n.toNat = (n - 1#4).toNat + 1 := by bv_omega
  rw [hs, crcBits_succ]

theorem Inv.crcRunStep (h : Inv s) (hq : s.seq = .sCrcRun) (hp : s.port = .free) :
    Inv (crcRunStep s) := by
  have ho : s.op = 0x09#8 := h.op_at hq
  have hle := h.bitcnt_le
  unfold Machine.crcRunStep
  split
  next hb => exact h.respond hb hp rfl (by simp [responseRow, outcomeAllowed, opAssigned, ho])
  next hb =>
    exact { h with
      bitcnt_le := by simp only [crcBitStep_bitcnt]; bv_omega
      bitcnt_zero := fun _ hr => absurd hq hr
      crc_in_progress := crcInProgress_other hq }

/-- The CRC phase begins with no byte fed (R138). -/
theorem Inv.startCrcPhase (h : Inv s) (hq : s.seq = .sRdBytes) (hp : s.port = .free) :
    Inv (startCrcPhase s) := by
  have h0 : Inv { s with acc := Config.crcInit, bitcnt := 0#4, bytecnt := 0#4 } :=
    { h with
      bitcnt_le := by simp
      bitcnt_zero := fun _ _ => rfl
      bytecnt_le := by simp
      port_matches := portMatches_free hp
      crc_in_progress := crcInProgress_other hq }
  exact h0.goOn hq .sRdCrc rfl hp trivial
    ((crcInProgress_rdCrc rfl).2 ⟨by simp, rfl⟩)

/-- The bytes fed, with the next one (R139). -/
theorem crcCovered_take_succ (s : State) (hn : s.bytecnt < 8#4) :
    (crcCovered s.sp).take (s.bytecnt + 1#4).toNat =
      (crcCovered s.sp).take s.bytecnt.toNat ++ [spByte s] := by
  have hs : (s.bytecnt + 1#4).toNat = s.bytecnt.toNat + 1 := by bv_omega
  have hlt : s.bytecnt.toNat < 8 := by bv_omega
  have hlen : s.bytecnt.toNat < s.sp.toList.length := by simp; omega
  have hb : (crcCovered s.sp)[s.bytecnt.toNat]? = some (spByte s) := by
    rw [crcCovered, List.getElem?_take_of_lt hlt, spByte, List.getD_eq_getElem?_getD,
      List.getElem?_eq_getElem hlen]
    rfl
  rw [hs, List.take_add_one, hb]
  rfl

/-- A bit step of the CRC phase keeps the CRC of the bytes fed (R139). -/
theorem Inv.rdCrcBit (h : Inv s) (hq : s.seq = .sRdCrc) (hb : 0#4 < s.bitcnt) :
    Inv (crcBitStep s) := by
  have hle := h.bitcnt_le
  obtain ⟨hn, hcrc⟩ := (crcInProgress_rdCrc hq).1 h.crc_in_progress
  have hc : crcInProgress (crcBitStep s) :=
    (crcInProgress_rdCrc (s := crcBitStep s) hq).2 ⟨hn, (crcBits_bitStep hb s.acc).trans hcrc⟩
  exact { h with
    bitcnt_le := by simp only [crcBitStep_bitcnt]; bv_omega
    bitcnt_zero := fun hr => absurd hq hr
    crc_in_progress := hc }

/-- With no iteration left, `ACC` is the CRC of the bytes fed (R139). -/
theorem Inv.acc_fed (h : Inv s) (hq : s.seq = .sRdCrc) (hb : s.bitcnt = 0#4) :
    s.acc = crc8 ((crcCovered s.sp).take s.bytecnt.toNat) := by
  obtain ⟨-, hcrc⟩ := (crcInProgress_rdCrc hq).1 h.crc_in_progress
  rwa [hb] at hcrc

/-- The load of the next byte: its eight iterations give the CRC with that byte (R110, R139). -/
theorem Inv.rdCrcLoad (h : Inv s) (hq : s.seq = .sRdCrc) (hp : s.port = .free)
    (hb : s.bitcnt = 0#4) (hlt : s.bytecnt < 8#4) :
    Inv { loadCrcByte (spByte s) s with bytecnt := s.bytecnt + 1#4 } := by
  have hfed : crc8 ((crcCovered s.sp).take (s.bytecnt + 1#4).toNat) = crcByte s.acc (spByte s) := by
    rw [crcCovered_take_succ s hlt, crc8_append, ← h.acc_fed hq hb]
  have hc : crcInProgress { loadCrcByte (spByte s) s with bytecnt := s.bytecnt + 1#4 } :=
    (crcInProgress_rdCrc (s := { loadCrcByte (spByte s) s with bytecnt := s.bytecnt + 1#4 }) hq).2
      ⟨by change s.bytecnt + 1#4 ≤ 8#4; bv_omega, hfed.symm⟩
  exact { h with
    bitcnt_le := by simp
    bitcnt_zero := fun hr => absurd hq hr
    bytecnt_le := by simp only; bv_omega
    port_matches := portMatches_free hp
    crc_in_progress := hc }

theorem Inv.rdCrcStep (h : Inv s) (hq : s.seq = .sRdCrc) (hp : s.port = .free) :
    Inv (rdCrcStep s) := by
  unfold Machine.rdCrcStep
  split
  next hb => exact h.rdCrcBit hq hb
  next hb =>
    have hb0 : s.bitcnt = 0#4 := by bv_omega
    split
    next hlt => exact h.rdCrcLoad hq hp hb0 hlt
    next hge =>
      have hall : (crcCovered s.sp).take s.bytecnt.toNat = crcCovered s.sp :=
        List.take_of_length_le (by simp [crcCovered]; bv_omega)
      exact h.goOn hq .sRdCheck hb0 hp trivial ((h.acc_fed hq hb0).trans (congrArg crc8 hall))

theorem Inv.rdCheckStep (h : Inv s) (hq : s.seq = .sRdCheck) (hp : s.port = .free) :
    Inv (rdCheckStep s) := by
  have ho : s.op = 0x04#8 := h.op_at hq
  have hb : s.bitcnt = 0#4 := h.bitcnt_at hq
  unfold Machine.rdCheckStep
  split
  next => exact h.respond hb hp rfl (by simp [responseRow, outcomeAllowed, opAssigned, ho])
  next => exact h.respondInvalid hb hp ho

theorem Inv.finishConvert (h : Inv s) (hq : s.seq = .sConvReset) (hp : s.port = .free) :
    Inv (finishConvert s) := by
  have ho : s.op = 0x02#8 := h.op_at hq
  exact h.respond (h.bitcnt_at hq) hp rfl
    (by simp [responseRow, outcomeAllowed, opAssigned, ho])

theorem Inv.internalStep (h : Inv s) (hp : s.port = .free) : Inv (internalStep s) := by
  unfold Machine.internalStep
  split
  case h_1 hq => exact h.finishConvert hq hp
  case h_2 hq => exact h.waitStep hq hp
  case h_3 hq => exact h.startCrcPhase hq hp
  case h_4 hq => exact h.rdCrcStep hq hp
  case h_5 hq => exact h.rdCheckStep hq hp
  case h_6 hq => exact h.crcRunStep hq hp
  all_goals exact h

/-! ## Requests and answers -/

/-- The request the engine issues is the one `SEQ` calls for (R52, R131, R133, R137, R138). -/
theorem portMatches_sendRequest (h : Inv s) {i : Instr} {r : Request}
    (he : engineRequest s = some i) (hi : requestOf i = some r) : portMatches (sendRequest r s) := by
  have hd := h.devidx_in_range
  cases hq : s.seq <;> simp only [engineRequest, devidxInRange, hq] at he hd
  case sConvReset =>
    split at he <;> cases he
    next hne => cases hi; simp [portMatches, sendRequest, hq, Nat.lt_of_le_of_ne hd hne]
  case sConvSelect =>
    cases he; cases hi
    simp [portMatches, sendRequest, hq, devEntry, hd]
  case sRdBytes =>
    split at he <;> cases he
    next hlt => cases hi; simpa [portMatches, sendRequest, hq] using hlt
  all_goals cases he
  all_goals cases hi; simp [portMatches, sendRequest, hq]

theorem Inv.sendRequest (h : Inv s) {i : Instr} {r : Request} (he : engineRequest s = some i)
    (hi : requestOf i = some r) : Inv (sendRequest r s) :=
  { h with port_matches := portMatches_sendRequest h he hi }

/-- A bit iteration is never left over while a request is outstanding (R22). -/
theorem Inv.bitcnt_of_requestState (h : Inv s) (hq : requestState s.seq = true) :
    s.bitcnt = 0#4 :=
  h.bitcnt_zero (by intro he; simp [he, requestState] at hq) (by intro he; simp [he, requestState] at hq)

/-- Only `SCAN`, `CONVERT` and `READ` issue requests (R131, R133, R137). -/
theorem Inv.op_of_requestState (h : Inv s) (hq : requestState s.seq = true) :
    s.op = 0x01#8 ∨ s.op = 0x02#8 ∨ s.op = 0x04#8 := by
  have ho := h.seq_matches_op
  cases hs : s.seq <;> simp_all [requestState, seqMatchesOp]

theorem Inv.failed (h : Inv s) (hq : requestState s.seq = true) (code : Byte) :
    Inv (Machine.abortWith .transportFail code s) :=
  h.abortWith (h.bitcnt_of_requestState hq) rfl
    (by rcases h.op_of_requestState hq with ho | ho | ho <;> simp [responseRow, outcomeAllowed, ho])

theorem Inv.completeScan (h : Inv s) (hq : s.seq = .sScan) (hp : s.port = .free)
    (items : List Addr) : Inv (completeScan items s) := by
  have ho : s.op = 0x01#8 := h.op_at hq
  have hb : s.bitcnt = 0#4 := h.bitcnt_at hq
  rcases completeScan_cases items s with ⟨hf, he⟩ | ⟨-, he⟩ <;> rw [he]
  · have h0 : Inv { s with devlist := items } :=
      { h with
        list_fits := hf
        devidx_in_range := by simp [devidxInRange, hq]
        port_matches := portMatches_free hp }
    exact h0.respond hb hp rfl (by simp [responseRow, outcomeAllowed, opAssigned, ho])
  · exact h.abortWith hb rfl (by simp [responseRow, outcomeAllowed, ho])

/-- A byte is stored only where the request for it was issued, so `BYTECNT` was below 9 (R138). -/
theorem Inv.storeSp (h : Inv s) (hq : s.seq = .sRdBytes) (hp : s.port = .free)
    (hlt : s.bytecnt < 9#4) (b : Byte) : Inv (storeSp b s) :=
  { h with
    bytecnt_le := by simp only [storeSp_bytecnt]; bv_omega
    port_matches := portMatches_free hp
    crc_in_progress := crcInProgress_other hq }

/-- What the outstanding request of `SEQ` says of the indices: entry `DEVIDX` exists, a byte is missing
(R26, R138). -/
theorem Inv.waiting_bounds (h : Inv s) {r : Request} {items : List Addr}
    (hp : s.port = .waiting r items) :
    (s.seq = .sConvReset → s.devidx < s.devcnt) ∧ (s.seq = .sRdBytes → s.bytecnt < 9#4) := by
  have hm := h.port_matches
  constructor <;> intro hq <;> simp only [portMatches, hp, hq] at hm
  · exact hm.2.2
  · exact hm.2.2

/-- A request that is done takes the operation on to a good state (R131, R133, R137, R138). -/
theorem Inv.completed (h : Inv s) (hp : s.port = .free)
    (hidx : s.seq = .sConvReset → s.devidx < s.devcnt)
    (hbytes : s.seq = .sRdBytes → s.bytecnt < 9#4) {d : BitVec 64} {items : List Addr}
    (hc : completeRequest d items s = some s') : Inv s' := by
  rcases completeRequest_cases hc with ⟨hq, rfl⟩ | ⟨hq, rfl⟩ | ⟨hq, rfl⟩ | ⟨hq, rfl⟩ | ⟨hq, rfl⟩ |
    ⟨hq, rfl⟩ | ⟨hq, rfl⟩ | ⟨hq, rfl⟩
  · exact h.completeScan hq hp items
  · exact h.goOn hq .sConvSelect (h.bitcnt_at hq) hp (hidx hq) trivial
  · have hd : s.devidx < s.devcnt := h.devidx_at hq
    exact h.goOn hq .sConvWrite (h.bitcnt_at hq) hp hd trivial
  · have hd : s.devidx < s.devcnt := h.devidx_at hq
    exact { h.goOn hq .sConvReset (h.bitcnt_at hq) hp hd.le trivial with
      devidx_in_range := hd
      port_matches := portMatches_free hp }
  · exact h.goOn hq .sRdSelect (h.bitcnt_at hq) hp trivial trivial
  · exact h.goOn hq .sRdWrite (h.bitcnt_at hq) hp trivial trivial
  · exact { h.goOn hq .sRdBytes (h.bitcnt_at hq) hp trivial trivial with
      bytecnt_le := by simp
      port_matches := portMatches_free hp
      crc_in_progress := trivial }
  · exact h.storeSp hq hp (hbytes hq) _

/-- One more item of a scan's answer is still a scan's answer (R88). -/
theorem Inv.itemKept (h : Inv s) {items : List Addr} (hp : s.port = .waiting .scan items) (a : Addr) :
    Inv { s with port := .waiting .scan (items ++ [a]) } := by
  have hm := h.port_matches
  have hk : portMatches { s with port := .waiting .scan (items ++ [a]) } := by
    cases hq : s.seq <;> simp_all [portMatches]
  exact { h with port_matches := hk }

/-! ## Reset -/

/-- The block at its reset values is in a good state, whatever parameters R7 allows it has (R42). -/
theorem inv_reset_cfg {c : Config} (hc : c.wf = true) : Inv { State.reset with cfg := c } where
  bitcnt_le := by change 0#4 ≤ 8#4; decide
  bitcnt_zero := fun _ _ => rfl
  bytecnt_le := by change 0#4 ≤ 9#4; decide
  list_fits := by cases hm : c.maxDev <;> simp [fits, State.devcnt, hm, State.reset]
  devidx_in_range := trivial
  seq_matches_op := trivial
  waitcnt_le := Nat.zero_le _
  rsp_valid_iff := by simp [State.reset]
  rsp_well_formed := ⟨.rspOk 0#8 0#16, decodeRsp_responseRow .ok 0#8 0#16, rfl⟩
  outcome_allowed := fun he => by cases he
  port_matches := trivial
  crc_in_progress := trivial
  cfg_wf := hc

theorem Inv.resetBlock (h : Inv s) : Inv (resetBlock s) := { inv_reset_cfg h.cfg_wf with }

theorem ofBlock_wf : Config.ofBlock.wf = true := by
  cases h : Config.maxDevLessOne <;> simp [Config.wf, Config.ofBlock, h]

/-! ## The invariant of the whole machine -/

theorem Inv.stepCase (h : Inv s) (hs : StepCase s s') : Inv s' := by
  cases hs with
  | reset => exact h.resetBlock
  | waits => exact h
  | ignores => exact { h with }
  | accepts hr w rest i _ hd =>
    exact Inv.accepted (s := { s with cmds := rest }) { h with } hr.2 hr.1.2.1 hd
  | rejects hr w rest e _ hd =>
    exact Inv.acceptIllegal (s := { s with cmds := rest }) { h with } hr.2 hr.1.2.1
      (decodeCmd_error hd)
  | delivers hr hq => exact h.deliver hq hr.2.1
  | issues _ i r he hi => exact h.sendRequest he hi
  | moves hr => exact h.internalStep hr.2.1
  | done _ r items hp d rest _ t hc =>
    obtain ⟨hidx, hbytes⟩ := h.waiting_bounds hp
    have h0 : Inv (recordBeat (doneBeat d) { s with tans := rest }) := { h with }
    exact h0.closeRequest.completed rfl hidx hbytes hc
  | fails _ r items _ d rest _ hq =>
    exact Inv.failed (s := recordBeat (failBeat d) { s with tans := rest }) { h with } hq _
  | item _ items hp a rest =>
    exact Inv.itemKept (s := recordBeat (itemBeat a) { s with tans := rest }) { h with } hp a

/-- Settles O49: every kind of step keeps the invariant. -/
theorem stepKeepsInvariant : Obligations.StepKeepsInvariant :=
  fun _ _ h hs => h.stepCase (step_cases hs)

/-- Settles O51: the parameters of the block are among those R7 allows. -/
theorem resetMeetsInvariant : Obligations.ResetMeetsInvariant := { inv_reset_cfg ofBlock_wf with }

end Sys2Proof.Machine
end

section
/-! SUPPORT. Which steps write the list and `ACC` (R21, R25). -/

namespace Sys2Proof.Machine

variable {s s' : State}

/-! ## The writers of the list and of `ACC` -/

@[simp] theorem acceptedState_devlist (w : CmdWord) (s : State) (i : Instr) :
    (acceptedState w s i).devlist = s.devlist := by
  cases i <;> rfl

@[simp] theorem acceptIllegal_devlist (w : CmdWord) (s : State) :
    (acceptIllegal w s).devlist = s.devlist := rfl

@[simp] theorem acceptIllegal_acc (w : CmdWord) (s : State) : (acceptIllegal w s).acc = s.acc := rfl

/-- Of the accepting steps only those of `CRCCLR` and `CRCBYTE` write `ACC` (R21). -/
theorem acceptedState_acc {w : CmdWord} {i : Instr} (hd : decodeCmd w = .ok i) :
    (acceptedState w s i).acc = s.acc ∨ cmdOp w = 0x08#8 ∨ cmdOp w = 0x09#8 := by
  rcases decodeCmd_cases hd with
    ⟨-, rfl⟩ | ⟨-, rfl⟩ | ⟨-, rfl⟩ | ⟨-, rfl⟩ | ⟨ho, -⟩ | ⟨ho, -⟩
  · exact .inl rfl
  · exact .inl rfl
  · exact .inl rfl
  · exact .inl rfl
  · exact .inr (.inl ho)
  · exact .inr (.inr ho)

/-- Of the engine's own steps only those of the CRC write `ACC` (R21). -/
theorem internalStep_acc (h1 : s.seq ≠ .sCrcRun) (h2 : s.seq ≠ .sRdBytes) (h3 : s.seq ≠ .sRdCrc) :
    (internalStep s).acc = s.acc := by
  unfold internalStep
  split
  case h_2 => unfold waitStep; split <;> rfl
  case h_3 hq => exact absurd hq h2
  case h_4 hq => exact absurd hq h3
  case h_5 => unfold rdCheckStep; split <;> rfl
  case h_6 hq => exact absurd hq h1
  all_goals rfl

@[simp] theorem completeScan_acc (items : List Addr) (s : State) :
    (completeScan items s).acc = s.acc := by
  rcases completeScan_cases items s with ⟨-, he⟩ | ⟨-, he⟩ <;> rw [he] <;> rfl

/-- A request that is done leaves `ACC` alone (R21). -/
theorem completeRequest_acc {d : BitVec 64} {items : List Addr}
    (hc : completeRequest d items s = some s') : s'.acc = s.acc := by
  rcases completeRequest_cases hc with ⟨-, rfl⟩ | ⟨-, rfl⟩ | ⟨-, rfl⟩ | ⟨-, rfl⟩ | ⟨-, rfl⟩ |
    ⟨-, rfl⟩ | ⟨-, rfl⟩ | ⟨-, rfl⟩
  · exact completeScan_acc items s
  all_goals rfl

/-- A request that is done changes the list only where a scan's answer fits (R25, R131). -/
theorem completeRequest_devlist {d : BitVec 64} {items : List Addr}
    (hc : completeRequest d items s = some s') :
    s'.devlist = s.devlist ∨
      (s.seq = .sScan ∧ s'.devlist = items ∧ s'.seq = .sRespond ∧
        s'.rsp = rspWord .ok 0#8 (BitVec.ofNat 16 items.length)) := by
  rcases completeRequest_cases hc with ⟨hq, rfl⟩ | ⟨-, rfl⟩ | ⟨-, rfl⟩ | ⟨-, rfl⟩ | ⟨-, rfl⟩ |
    ⟨-, rfl⟩ | ⟨-, rfl⟩ | ⟨-, rfl⟩
  · rcases completeScan_cases items s with ⟨-, he⟩ | ⟨-, he⟩ <;> rw [he]
    · exact .inr ⟨hq, rfl, rfl, rfl⟩
    · exact .inl rfl
  all_goals exact .inl rfl

/-- Settles O53: of all the kinds of step only the end of a request writes the list. -/
theorem listChangedOnlyByScan : Obligations.ListChangedOnlyByScan := by
  intro s t hr h
  cases step_cases h with
  | reset hr' => simp [hr] at hr'
  | accepts | rejects => left; simp
  | moves => exact .inl (internal_frame s).2.1
  | done _ r items hp d rest _ _ hc =>
    rcases completeRequest_devlist hc with he | ⟨hq, hl, hs, hw⟩
    · exact .inl he
    · exact .inr ⟨hq, r, items, hp, hl, hs, hw⟩
  | waits | ignores | delivers | issues | fails | item => exact .inl rfl

/-- Settles O54: of all the kinds of step only an accepting one and the engine's own write `ACC`. -/
theorem accumulatorWriters : Obligations.AccumulatorWriters := by
  intro s t hr h hne
  cases step_cases h with
  | reset hr' => simp [hr] at hr'
  | accepts hs w rest i hc hd =>
    rcases acceptedState_acc (s := { s with cmds := rest }) hd with he | ho
    · exact absurd he hne
    · exact .inl ⟨w, rest, hs.2, hc, ho⟩
  | moves _ _ _ he =>
    by_cases h1 : s.seq = .sCrcRun
    · exact .inr (.inl h1)
    by_cases h3 : s.seq = .sRdCrc
    · exact .inr (.inr (.inr h3))
    by_cases h2 : s.seq = .sRdBytes
    · have hb : ¬ s.bytecnt < 9#4 := by simpa [engineRequest, h2] using he
      exact .inr (.inr (.inl ⟨h2, by bv_omega⟩))
    · exact absurd (internalStep_acc h1 h2 h3) hne
  | done _ r items _ d rest _ _ hc => exact absurd (completeRequest_acc hc) hne
  | waits | ignores | rejects | delivers | issues | fails | item => exact absurd rfl hne

end Sys2Proof.Machine
end

section
/-! SUPPORT. The requests of the engine and the registers of the window, each as the model defines it. -/

namespace Sys2Proof.Machine

/-! ## The requests of the engine -/

/-- Settles O10: `engineRequest` names the instruction of each request state, and a step issues it. -/
theorem stepRunsEngineRequest : Obligations.StepRunsEngineRequest := by
  intro s hs
  refine ⟨fun hq => ?_, fun hq hne => ?_, fun hq a ha => ?_, fun hq => ?_, fun hq => ?_,
    fun hq => ?_, fun hq => ?_, fun hq hlt => ?_⟩
  · exact step_engine hs (by simp [engineRequest, hq])
  · exact step_engine hs (by simp [engineRequest, hq, hne])
  · exact step_engine hs (by simp [engineRequest, hq, devEntry, ha])
  · have he : engineRequest s = some (.tWrite Config.cmdConvertT) := by simp [engineRequest, hq]
    exact ⟨step_engine hs he, (step_engine hs he).trans rfl⟩
  · exact step_engine hs (by simp [engineRequest, hq])
  · exact step_engine hs (by simp [engineRequest, hq])
  · have he : engineRequest s = some (.tWrite Config.cmdReadScratchpad) := by
      simp [engineRequest, hq]
    exact ⟨step_engine hs he, (step_engine hs he).trans rfl⟩
  · exact step_engine hs (by simp [engineRequest, hq, hlt])

/-! ## The register window -/

@[simp] theorem windowRead_status (k : Nat) (s : State) : windowRead k s 0x000 = statusReg s := rfl

@[simp] theorem windowRead_devcnt (k : Nat) (s : State) : windowRead k s 0x001 = devcntReg s := rfl

@[simp] theorem windowRead_crc (k : Nat) (s : State) : windowRead k s 0x002 = crcReg s := rfl

/-- An address past the three registers is a `DEVADDR` register or reserved (R65). -/
theorem windowRead_of_three_le (k : Nat) (s : State) {a : Nat} (ha : 3 ≤ a) :
    windowRead k s a =
      if 0x100 ≤ a ∧ belowMaxDev s.cfg (a - 0x100) = true then devEntry s k (a - 0x100)
      else 0#64 := by
  have h0 : a ≠ 0 := by omega
  have h1 : a ≠ 1 := by omega
  have h2 : a ≠ 2 := by omega
  simp [windowRead, h0, h1, h2]

/-- The bits of `STATUS` (R33). -/
theorem statusReg_getLsbD (s : State) (n : Nat) :
    (statusReg s).getLsbD n =
      if n = 0 then busy s else if n = 1 then s.rspValid else false := by
  simp only [statusReg, BitVec.getLsbD_append]
  match n with
  | 0 => simp
  | 1 => simp
  | n + 2 => simp

theorem crcReg_eq_setWidth (s : State) : crcReg s = s.acc.setWidth 64 :=
  (BitVec.setWidth_eq_append (x := s.acc) (by decide)).symm

theorem statusReg_reset : statusReg State.reset = 0#64 := by decide

/-- Settles O29: each field of `State.reset` is the value of R42, and each register reads one of them. -/
theorem resetValues : Obligations.ResetValues := by
  refine ⟨rfl, rfl, rfl, rfl, rfl, rfl, rfl, rfl, rfl, rfl, rfl, rfl, fun k => ⟨?_, ?_, ?_⟩⟩
  · rw [windowRead_status, statusReg_reset]
  · rw [windowRead_devcnt]
    rfl
  · rw [windowRead_crc]
    rfl

/-- Settles O31: the window shows `statusReg`, bit by bit. -/
theorem statusRegister : Obligations.StatusRegister := by
  refine ⟨fun s k n _ => ?_, fun k => ?_, fun s v => rfl⟩
  · rw [windowRead_status, statusReg_getLsbD]
    rfl
  · rw [windowRead_status, statusReg_reset]

/-- Settles O32: eight bits behind 56 zeros are their zero extension. -/
theorem countAndCrcRegisters : Obligations.CountAndCrcRegisters := by
  intro s k
  exact ⟨windowRead_devcnt k s, (windowRead_crc k s).trans (crcReg_eq_setWidth s)⟩

/-- Settles O33: an entry of a list that fits lies below `MAX_DEV`. -/
theorem deviceAddressRegisters : Obligations.DeviceAddressRegisters := by
  intro s k i h hfits
  have hb : belowMaxDev s.cfg i = true := by
    cases hm : s.cfg.maxDev with
    | none => simp [belowMaxDev, hm]
    | some m => simpa [belowMaxDev, hm] using h.trans_le (hfits m hm)
  simp [windowRead_of_three_le k s (show 3 ≤ 0x100 + i by omega), hb, devEntry, h]

/-- Settles O34: below 0x100 there is no `DEVADDR` register, nor is there one from 0x100 + `MAX_DEV` on. -/
theorem windowReservedAndReadOnly : Obligations.WindowReservedAndReadOnly := by
  refine ⟨fun s k a h3 hff => ?_, fun s k a m hm ha => ?_, fun _ _ _ => rfl⟩
  · rw [windowRead_of_three_le k s h3, if_neg (by omega)]
  · have hb : ¬ a - 0x100 < m := by omega
    simp [windowRead_of_three_le k s (show 3 ≤ a by omega), belowMaxDev, hm, hb]

end Sys2Proof.Machine
end

section
/-! SUPPORT. The operands as integers and bytes, the requests as they go out, and the block's inputs. -/

namespace Sys2Proof.Machine

/-! ## The bytes of a device address -/

theorem addrByte_getLsbD (a : Addr) (k i : Nat) (hi : i < 8) :
    (addrByte a k).getLsbD i = a.getLsbD (8 * k + i) := by
  simp [addrByte, hi]

/-- An address is known by its eight bytes: bit `n` stands in byte `n / 8` (R61). -/
theorem addr_ext {a b : Addr} (h : ∀ k < 8, addrByte a k = addrByte b k) : a = b := by
  apply BitVec.eq_of_getLsbD_eq
  intro n hn
  have hk := congrArg (·.getLsbD (n % 8)) (h (n / 8) (by omega))
  simpa [addrByte_getLsbD _ _ _ (Nat.mod_lt n (by decide : 0 < 8)), Nat.div_add_mod] using hk

/-- The bytes of the address made of eight bytes are those bytes (R61, R90). -/
theorem addrByte_addrOfBytes (b : Vector Byte 8) (k : Nat) (h : k < 8) :
    addrByte (addrOfBytes b) k = b[k] := by
  apply BitVec.eq_of_getLsbD_eq
  intro i hi
  rw [addrByte_getLsbD _ _ _ hi]
  simp only [addrOfBytes, BitVec.getLsbD_append]
  -- For each `k`, the part of the append that holds bit `8 * k + i` is decided by arithmetic.
  interval_cases k <;> grind

/-- Settles O6: both addresses of the second half have the same eight bytes. -/
theorem addressByteOrder : Obligations.AddressByteOrder := by
  refine ⟨addrByte_addrOfBytes, fun a => addr_ext fun k hk => ?_⟩
  rw [addrByte_addrOfBytes _ k hk, Vector.getElem_ofFn]

/-! ## The temperature -/

/-- Two bytes, the second above the first, as a number (R60, R92). -/
theorem tRaw_toNat (sp : Vector Byte 9) :
    (tRaw sp).toNat = sp[1].toNat * 256 + sp[0].toNat := by
  rw [tRaw, BitVec.toNat_append, ← Nat.shiftLeft_add_eq_or_of_lt sp[0].isLt, Nat.shiftLeft_eq]

theorem sint16_eq_toInt (v : BitVec 16) : sint16 v = v.toInt := by
  rw [BitVec.toInt_eq_msb_cond, BitVec.msb_eq_getLsbD_last]
  rfl

theorem celsius_eq_toInt_div (raw : BitVec 16) : celsius raw = (raw.toInt : Rat) / 16 := by
  rw [celsius, sint16_eq_toInt]
  rfl

/-- A quotient by 16 of an integer of 16 bits lies between those of the least and the greatest one. -/
theorem celsius_bounds (raw : BitVec 16) :
    -2048 ≤ celsius raw ∧ celsius raw ≤ 2047 + 15 / 16 := by
  have hlo : (-32768 : Rat) ≤ raw.toInt := by exact_mod_cast raw.le_toInt
  have hhi : (raw.toInt : Rat) ≤ 32767 := by exact_mod_cast Int.le_of_lt_add_one raw.toInt_lt
  rw [celsius_eq_toInt_div]
  constructor <;> linarith

/-- Settles O41: the temperature is the value of the two bytes in two's complement, over 16. -/
theorem temperatureDecoded : Obligations.TemperatureDecoded := by
  refine ⟨tRaw_toNat, fun raw => ⟨sint16_eq_toInt raw, ?_, celsius_bounds raw⟩, ?_, ?_, ?_⟩
  · rw [celsius_eq_toInt_div, div_mul_cancel₀ _ (by decide)]
  · rw [celsius_eq_toInt_div, show (0x0550#16).toInt = 1360 by decide]
    norm_num
  · rw [celsius_eq_toInt_div, show (0xFF6F#16).toInt = -145 by decide]
    norm_num
  · rw [celsius_eq_toInt_div, show (0xFFF7#16).toInt = -9 by decide]
    norm_num

/-! ## The requests and the inputs -/

/-- An instruction of the port sends its request where none is outstanding (R52). -/
theorem exec_sends {s : State} {i : Instr} {r : Request} (hp : s.port = .free)
    (h : requestOf i = some r) : exec i s = .next (sendRequest r s) :=
  (exec_requestOf h).trans (issue_free r hp)

/-- Settles O14: each row has its request, and `sendRequest` is the state the statement writes out. -/
theorem requestsIssued : Obligations.RequestsIssued := by
  rintro s _ hp rfl
  exact ⟨exec_sends hp rfl, fun _ => exec_sends hp rfl, fun _ => exec_sends hp rfl,
    exec_sends hp rfl, exec_sends hp rfl, exec_sends hp rfl, exec_sends hp rfl⟩

/-- Settles O50: no clause of the invariant speaks of an input. -/
theorem inputsKeepInvariant : Obligations.InputsKeepInvariant :=
  fun _ _ _ _ _ _ _ h => { h with }

end Sys2Proof.Machine
end

section
/-! SUPPORT. The decoder and the encoder undo each other, format by format (30_encoding.md). -/

namespace Sys2Proof

/-! ## The word of each operation, request, beat and bus byte decodes to it -/

@[simp] theorem decodeCmd_crcclr (arg : BitVec 64) :
    decodeCmd (cmdWord 0x08#8 arg) = .ok (.crcclr arg) := by
  simp [decodeCmd]

@[simp] theorem decodeCmd_crcbyte (hi : BitVec 56) (b : Byte) :
    decodeCmd (cmdWord 0x09#8 (hi ++ b)) = .ok (.crcbyte hi b) := by
  simp [decodeCmd, cmdWord_hi, cmdWord_lo]

/-- The 56 bits that R87 says are zero, and the byte, of a `T_WRITE` word. -/
theorem treqWord_hi (p : BitVec 3) (hi : BitVec 56) (b : Byte) :
    (treqWord p (hi ++ b)).extractLsb' 8 56 = hi :=
  (BitVec.extractLsb'_append_eq_of_add_le (by decide)).trans BitVec.extractLsb'_append_eq_left

theorem treqWord_lo (p : BitVec 3) (hi : BitVec 56) (b : Byte) :
    (treqWord p (hi ++ b)).extractLsb' 0 8 = b :=
  (BitVec.extractLsb'_append_eq_of_add_le (by decide)).trans BitVec.extractLsb'_append_eq_right

@[simp] theorem decodeTreq_tWrite (v : Byte) :
    decodeTreq (treqWord 2#3 (0#56 ++ v)) = .ok (.tWrite v) := by
  simp [decodeTreq, treqWord_hi, treqWord_lo]

/-- Settles O1: a row's op, primitive, kind, status or byte selects its branch of the decoder, which reads
back the operand that the encoder wrote. -/
theorem decodeOfEncode : Obligations.DecodeOfEncode := by
  intro i
  cases i with
  | scan arg => simp [encode, Instr.format, decode, decodeCmd]
  | convert arg => simp [encode, Instr.format, decode, decodeCmd]
  | wait arg => simp [encode, Instr.format, decode, decodeCmd]
  | read a => simp [encode, Instr.format, decode, decodeCmd]
  | crcclr arg => exact decodeCmd_crcclr arg
  | crcbyte hi b => exact decodeCmd_crcbyte hi b
  | tReset => decide
  | tSelect a => simp [encode, Instr.format, decode, decodeTreq]
  | tWrite v => exact decodeTreq_tWrite v
  | tRead => decide
  | tScan => decide
  | cmdConvertT => decide
  | cmdReadScratchpad => decide
  | rspOk info data => exact decodeRsp_rspWord .ok info data
  | rspInvalid info data => exact decodeRsp_rspWord .invalid info data
  | rspTransportFail info data => exact decodeRsp_rspWord .transportFail info data
  | rspIllegalOp info data => exact decodeRsp_rspWord .illegalOp info data
  | rspListOverflow info data => exact decodeRsp_rspWord .listOverflow info data
  | tansDone t => exact decodeTans_doneBeat t
  | tansFail t => exact decodeTans_failBeat t
  | tansItem a => exact decodeTans_itemBeat a

/-! ## A word that decodes is the word of what it decodes to -/

theorem cmdWord_of_op {w : CmdWord} {op : Byte} (h : cmdOp w = op) : cmdWord op (cmdArg w) = w :=
  h ▸ cmdWord_fields w

theorem treqWord_of_prim {w : TreqWord} {p : BitVec 3} (h : treqPrim w = p) :
    treqWord p (treqTarg w) = w :=
  h ▸ treqWord_fields w

theorem tansWord_of_kind {w : TansWord} {k : BitVec 2} (h : tansKind w = k) :
    tansWord k (tansData w) = w :=
  h ▸ tansWord_fields w

/-- The operand of a command is its upper 56 bits before its last byte (R95). -/
theorem cmdArg_eq_append (w : CmdWord) : w.extractLsb' 8 56 ++ w.extractLsb' 0 8 = cmdArg w :=
  BitVec.extractLsb'_append_extractLsb'_eq_extractLsb' (x := w) (start₁ := 0) (len₁ := 8)
    (start₂ := 8) (len₂ := 56) rfl

theorem treqTarg_eq_append (w : TreqWord) : w.extractLsb' 8 56 ++ w.extractLsb' 0 8 = treqTarg w :=
  BitVec.extractLsb'_append_extractLsb'_eq_extractLsb' (x := w) (start₁ := 0) (len₁ := 8)
    (start₂ := 8) (len₂ := 56) rfl

/-- The five cases of a request word: its primitive, the bits that are zero, and what it decodes to
(R87). -/
theorem decodeTreq_cases {w : TreqWord} {i : Instr} (hd : decodeTreq w = .ok i) :
    (treqPrim w = 0#3 ∧ treqTarg w = 0#64 ∧ i = .tReset) ∨
      (treqPrim w = 1#3 ∧ i = .tSelect (treqTarg w)) ∨
      (treqPrim w = 2#3 ∧ w.extractLsb' 8 56 = 0#56 ∧ i = .tWrite (w.extractLsb' 0 8)) ∨
      (treqPrim w = 3#3 ∧ treqTarg w = 0#64 ∧ i = .tRead) ∨
      (treqPrim w = 4#3 ∧ treqTarg w = 0#64 ∧ i = .tScan) := by
  unfold decodeTreq at hd
  repeat' split at hd
  all_goals simp_all

/-- The three cases of an answer beat (R88). -/
theorem decodeTans_cases {w : TansWord} {i : Instr} (hd : decodeTans w = .ok i) :
    (tansKind w = 0#2 ∧ i = .tansDone (tansData w)) ∨
      (tansKind w = 1#2 ∧ i = .tansFail (tansData w)) ∨
      (tansKind w = 2#2 ∧ i = .tansItem (tansData w)) := by
  unfold decodeTans at hd
  repeat' split at hd
  all_goals simp_all

/-- The five cases of a response word (R85). -/
theorem decodeRsp_cases {w : RspWord} {i : Instr} (hd : decodeRsp w = .ok i) :
    (rspStatus w = Status.ok.code ∧ i = .rspOk (rspInfo w) (rspData w)) ∨
      (rspStatus w = Status.invalid.code ∧ i = .rspInvalid (rspInfo w) (rspData w)) ∨
      (rspStatus w = Status.transportFail.code ∧ i = .rspTransportFail (rspInfo w) (rspData w)) ∨
      (rspStatus w = Status.illegalOp.code ∧ i = .rspIllegalOp (rspInfo w) (rspData w)) ∨
      (rspStatus w = Status.listOverflow.code ∧ i = .rspListOverflow (rspInfo w) (rspData w)) := by
  unfold decodeRsp at hd
  repeat' split at hd
  all_goals simp_all [Status.code]

/-- The two bus bytes (R89). -/
theorem decodeBuscmd_cases {v : Byte} {i : Instr} (hd : decodeBuscmd v = .ok i) :
    (v = 0x44#8 ∧ i = .cmdConvertT) ∨ (v = 0xBE#8 ∧ i = .cmdReadScratchpad) := by
  unfold decodeBuscmd at hd
  repeat' split at hd
  all_goals simp_all

theorem encode_of_decodeCmd {w : CmdWord} {i : Instr} (hd : decodeCmd w = .ok i) :
    i.format = .cmd ∧ (encode i).toNat = w.toNat := by
  rcases Machine.decodeCmd_cases hd with
    ⟨ho, rfl⟩ | ⟨ho, rfl⟩ | ⟨ho, rfl⟩ | ⟨ho, rfl⟩ | ⟨ho, rfl⟩ | ⟨ho, rfl⟩
  case inr.inr.inr.inr.inr =>
    refine ⟨rfl, congrArg BitVec.toNat (?_ : cmdWord 0x09#8 _ = w)⟩
    rw [cmdArg_eq_append, cmdWord_of_op ho]
  all_goals exact ⟨rfl, congrArg BitVec.toNat (cmdWord_of_op ho)⟩

theorem encode_of_decodeTreq {w : TreqWord} {i : Instr} (hd : decodeTreq w = .ok i) :
    i.format = .treq ∧ (encode i).toNat = w.toNat := by
  rcases decodeTreq_cases hd with
    ⟨hp, h0, rfl⟩ | ⟨hp, rfl⟩ | ⟨hp, h0, rfl⟩ | ⟨hp, h0, rfl⟩ | ⟨hp, h0, rfl⟩
  case inr.inl => exact ⟨rfl, congrArg BitVec.toNat (treqWord_of_prim hp)⟩
  case inr.inr.inl =>
    refine ⟨rfl, congrArg BitVec.toNat (?_ : treqWord 2#3 (0#56 ++ _) = w)⟩
    rw [← h0, treqTarg_eq_append, treqWord_of_prim hp]
  all_goals
    have hw := treqWord_of_prim hp
    rw [h0] at hw
    exact ⟨rfl, congrArg BitVec.toNat hw⟩

theorem encode_of_decodeTans {w : TansWord} {i : Instr} (hd : decodeTans w = .ok i) :
    i.format = .tans ∧ (encode i).toNat = w.toNat := by
  rcases decodeTans_cases hd with ⟨hk, rfl⟩ | ⟨hk, rfl⟩ | ⟨hk, rfl⟩
  all_goals exact ⟨rfl, congrArg BitVec.toNat (tansWord_of_kind hk)⟩

theorem encode_of_decodeRsp {w : RspWord} {i : Instr} (hd : decodeRsp w = .ok i) :
    i.format = .rsp ∧ (encode i).toNat = w.toNat := by
  rcases decodeRsp_cases hd with ⟨hs, rfl⟩ | ⟨hs, rfl⟩ | ⟨hs, rfl⟩ | ⟨hs, rfl⟩ | ⟨hs, rfl⟩
  all_goals exact ⟨rfl, congrArg BitVec.toNat (rspWord_fields w _ hs)⟩

theorem encode_of_decodeBuscmd {v : Byte} {i : Instr} (hd : decodeBuscmd v = .ok i) :
    i.format = .buscmd ∧ (encode i).toNat = v.toNat := by
  rcases decodeBuscmd_cases hd with ⟨rfl, rfl⟩ | ⟨rfl, rfl⟩
  all_goals exact ⟨rfl, rfl⟩

/-- Settles O2: every format's decoder keeps all the fields of a word, and the fields make the word. -/
theorem encodeOfDecode : Obligations.EncodeOfDecode := by
  intro f w i hd
  cases f with
  | cmd => exact encode_of_decodeCmd hd
  | treq => exact encode_of_decodeTreq hd
  | tans => exact encode_of_decodeTans hd
  | rsp => exact encode_of_decodeRsp hd
  | buscmd => exact encode_of_decodeBuscmd hd

/-! ## Reserved ops, the spec's words, the assembler -/

/-- A command word is rejected, under its op, exactly when its op is not assigned (R93). -/
theorem decodeCmd_reserved_iff (w : CmdWord) :
    decodeCmd w = .error (.reservedOp (cmdOp w)) ↔ Machine.opAssigned (cmdOp w) = false := by
  refine ⟨Machine.decodeCmd_error, fun h => ?_⟩
  simp only [Machine.opAssigned, Bool.or_eq_false_iff, beq_eq_false_iff_ne] at h
  simp [decodeCmd, h]

/-- The op values that R82 does not assign are those R93 lists. -/
theorem opAssigned_eq_false_iff (op : Byte) :
    Machine.opAssigned op = false ↔
      op = 0x00#8 ∨ (0x05#8 ≤ op ∧ op ≤ 0x07#8) ∨ 0x0A#8 ≤ op := by
  simp only [Machine.opAssigned, Bool.or_eq_false_iff, beq_eq_false_iff_ne]
  bv_omega

/-- Settles O3: the decoder assigns six op values, and R93 lists the others. -/
theorem reservedOpsRejected : Obligations.ReservedOpsRejected :=
  fun w => (decodeCmd_reserved_iff w).trans (opAssigned_eq_false_iff (cmdOp w))

/-- Settles O4: the words are literals, and the decoder computes. -/
theorem specWordsDecode : Obligations.SpecWordsDecode := by
  refine ⟨?_, ?_, ?_, ?_, ?_⟩ <;> decide

theorem assemble_crc8 (bs : List Byte) :
    assemble [.crc8 bs] = cmdWord 0x08#8 0#64 :: bs.map fun b => cmdWord 0x09#8 (0#56 ++ b) := by
  simp [assemble, AsmLine.instrs, Instr.cmdWord?, List.filterMap_map, Function.comp_def]

/-- Settles O5: each line stands for its instructions, and each of them for its command word. -/
theorem assemblyWords : Obligations.AssemblyWords :=
  ⟨fun _ => rfl, fun _ => rfl, assemble_crc8, fun _ => rfl⟩

end Sys2Proof
end

section
/-! SUPPORT. Beats that stand on the port (30_encoding.md R88, R94), and what every step leaves of the
commands, the trace and the responses (R84, R89). -/

namespace Sys2Proof.Machine

variable {s s' : State}

/-! ## What a beat decodes to, by its kind -/

theorem decodeTans_reserved {w : TansWord} (hk : tansKind w = 3#2) :
    decodeTans w = .error .reservedKind := by
  simp [decodeTans, hk]

theorem decodeTans_item {w : TansWord} (hk : tansKind w = 2#2) :
    decodeTans w = .ok (.tansItem (tansData w)) := by
  simp [decodeTans, hk]

/-- A beat of any other kind than 3 is of a row (R88). -/
theorem decodeTans_of_kind_ne {w : TansWord} (hk : tansKind w ≠ 3#2) : ∃ i, decodeTans w = .ok i := by
  have hk' : tansKind w = 0#2 ∨ tansKind w = 1#2 ∨ tansKind w = 2#2 := by bv_omega
  rcases hk' with h | h | h
  all_goals simp [decodeTans, h]

/-- Settles O8: a beat that comes next is taken off the port, and its row is run. -/
theorem stepRunsAnswerBeat : Obligations.StepRunsAnswerBeat :=
  fun _ _ _ _ hr hl ht hd => step_beat hr hl ht hd

/-- Settles O20: the row of an `ITEM` beat has a case for `T_SCAN`. -/
theorem scanItemsKeptInOrder : Obligations.ScanItemsKeptInOrder := by
  intro s items a hp
  simp [exec, execTansItem, hp, recordBeat]

/-! ## Beats that the contract of R88 does not allow -/

theorem exec_item_outside_scan {r : Request} {items : List Addr} (hp : s.port = .waiting r items)
    (hne : r ≠ .scan) (a : Addr) : exec (.tansItem a) s = .refused .itemOutsideScan := by
  cases r with
  | scan => exact absurd rfl hne
  | reset | select | write | read => simp [exec, execTansItem, hp]

/-- With no request outstanding, a beat on the port is refused by the next step (R94; log 14). -/
theorem step_stray_beat {w : TansWord} {rest : List TansWord} (hr : s.rst = false)
    (hl : noLateBeat s) (ht : s.tans = w :: rest) (hp : s.port = .free) (hk : tansKind w ≠ 3#2) :
    step s = .refused .strayBeat := by
  obtain ⟨i, hd⟩ := decodeTans_of_kind_ne hk
  rw [step_beat hr hl ht hd]
  exact exec_beat_free hd hp

/-- Settles O21: the decoder refuses kind 3, and the rows of the three beats refuse the other breaches. -/
theorem contractBreachesRefused : Obligations.ContractBreachesRefused := by
  refine ⟨fun s w rest hr hl ht => ⟨fun hk => ?_, fun r items hp hk hne => ?_, fun hp hk => ?_⟩,
    fun s r items a hp hne => exec_item_outside_scan hp hne a, fun s hp => ⟨?_, ?_, ?_⟩⟩
  · exact step_reserved_beat hr hl ht (decodeTans_reserved hk)
  · rw [step_beat hr hl ht (decodeTans_item hk)]
    exact exec_item_outside_scan (s := { s with tans := rest }) hp hne _
  · exact step_stray_beat hr hl ht hp hk
  · exact fun t => exec_beat_free (decodeTans_doneBeat t) hp
  · exact fun t => exec_beat_free (decodeTans_failBeat t) hp
  · exact fun a => exec_beat_free (decodeTans_itemBeat a) hp

/-! ## What the end of a request leaves alone -/

/-- What a step leaves alone that only takes the operation in progress on: what stands on the channels,
and what observers have seen. -/
structure SameChannels (s s' : State) : Prop where
  port : s'.port = s.port
  cmds : s'.cmds = s.cmds
  tans : s'.tans = s.tans
  abandoned : s'.abandoned = s.abandoned
  rst : s'.rst = s.rst
  trace : s'.trace = s.trace
  delivered : s'.delivered = s.delivered

/-- A request that is done takes the operation on, or ends it with a response, and touches no channel
(R131, R133, R137, R138). -/
theorem completeRequest_sameChannels {d : BitVec 64} {items : List Addr} (hp : s.port = .free)
    (hc : completeRequest d items s = some s') : SameChannels s s' := by
  rcases completeRequest_cases hc with ⟨-, rfl⟩ | ⟨-, rfl⟩ | ⟨-, rfl⟩ | ⟨-, rfl⟩ | ⟨-, rfl⟩ |
    ⟨-, rfl⟩ | ⟨-, rfl⟩ | ⟨-, rfl⟩
  · rcases completeScan_cases items s with ⟨-, he⟩ | ⟨-, he⟩ <;> rw [he]
    · exact ⟨rfl, rfl, rfl, rfl, rfl, rfl, rfl⟩
    · exact ⟨hp.symm, rfl, rfl, rfl, rfl, rfl, rfl⟩
  all_goals exact ⟨rfl, rfl, rfl, rfl, rfl, rfl, rfl⟩

/-- The block is busy before and after a request is done (R30). -/
theorem completeRequest_busy {d : BitVec 64} {items : List Addr}
    (hc : completeRequest d items s = some s') : s.seq ≠ .sIdle ∧ s'.seq ≠ .sIdle := by
  rcases completeRequest_cases hc with ⟨hq, rfl⟩ | ⟨hq, rfl⟩ | ⟨hq, rfl⟩ | ⟨hq, rfl⟩ | ⟨hq, rfl⟩ |
    ⟨hq, rfl⟩ | ⟨hq, rfl⟩ | ⟨hq, rfl⟩
  · rcases completeScan_cases items s with ⟨-, he⟩ | ⟨-, he⟩ <;> rw [he] <;> simp [hq, abortWith]
  all_goals simp [hq, storeSp]

/-- The step that takes the last beat of an answer frees the port and leaves the beats behind it there
(R88). -/
theorem step_last_beat {r : Request} {items : List Addr} {w : TansWord} {rest : List TansWord}
    (hr : s.rst = false) (hl : noLateBeat s) (hp : s.port = .waiting r items)
    (ht : s.tans = w :: rest) (hk : tansKind w ≠ 2#2) (h : step s = .next s') :
    s'.port = .free ∧ s'.tans = rest ∧ s'.rst = s.rst ∧ s'.abandoned = s.abandoned := by
  cases hd : decodeTans w with
  | error e => rw [step_reserved_beat hr hl ht hd] at h; cases h
  | ok i =>
    rw [step_beat hr hl ht hd] at h
    rcases exec_beat_cases (s := { s with tans := rest }) hd hp h with
      ⟨d, rfl, hc⟩ | ⟨d, rfl, -, rfl⟩ | ⟨a, rfl, -, -⟩
    · have hs := completeRequest_sameChannels rfl hc
      exact ⟨hs.port, hs.tans, hs.rst, hs.abandoned⟩
    · exact ⟨rfl, rfl, rfl, rfl⟩
    · exact absurd (tansKind_tansWord 2#2 a) hk

/-- Settles O56: the last beat frees the port, so the beat behind it answers nothing. -/
theorem secondFinalBeatRefused : Obligations.SecondFinalBeatRefused := by
  intro s t r items w v rest hr hl hp ht hw hv h
  obtain ⟨hp', ht', hr', ha'⟩ := step_last_beat hr hl hp ht hw h
  exact step_stray_beat (hr'.trans hr) (by rw [noLateBeat, ha']; exact hl) ht' hp' hv

/-! ## The trace -/

@[simp] theorem acceptedState_trace (w : CmdWord) (s : State) (i : Instr) :
    (acceptedState w s i).trace = s.trace := by
  cases i <;> rfl

/-- The engine writes no byte on the bus but 0x44 and 0xBE (R89). -/
theorem engineRequest_write {i : Instr} {v : Byte} (he : engineRequest s = some i)
    (hi : requestOf i = some (.write v)) : v = 0x44#8 ∨ v = 0xBE#8 := by
  obtain ⟨r, hr, hb⟩ := engineRequest_request he
  rw [hi, Option.some.injEq] at hr
  simpa [busByteAllowed, Config.cmdConvertT, Config.cmdReadScratchpad] using hb v hr.symm

/-- Settles O22: of all the kinds of step only the engine's request adds a request to the trace. -/
theorem onlyTwoBytesWritten : Obligations.OnlyTwoBytesWritten := by
  intro s t h
  cases step_cases h with
  | reset | waits | delivers => exact ⟨[], (List.append_nil _).symm, by simp⟩
  | accepts | rejects => exact ⟨[], by simp [acceptIllegal], by simp⟩
  | moves => exact ⟨[], by simp [(internal_frame s).1], by simp⟩
  | ignores _ w => exact ⟨[.late w], rfl, by simp⟩
  | issues _ i r he hi =>
    refine ⟨[.req r], rfl, fun v hv => ?_⟩
    have hv' : .write v = r := by simpa using hv
    exact engineRequest_write he (hv' ▸ hi)
  | done _ _ _ _ d _ _ _ hc =>
    exact ⟨[.ans (doneBeat d)], (completeRequest_sameChannels rfl hc).trace, by simp⟩
  | fails _ _ _ _ d => exact ⟨[.ans (failBeat d)], rfl, by simp⟩
  | item _ _ _ a => exact ⟨[.ans (itemBeat a)], rfl, by simp⟩

/-! ## Commands and responses -/

theorem inProgress_idle (hq : s.seq = .sIdle) : inProgress s = 0 := by
  simp [inProgress, busy, hq]

theorem inProgress_busy (hq : s.seq ≠ .sIdle) : inProgress s = 1 := by
  simp [inProgress, busy, hq]

@[simp] theorem acceptedState_cmds (w : CmdWord) (s : State) (i : Instr) :
    (acceptedState w s i).cmds = s.cmds := by
  cases i <;> rfl

@[simp] theorem acceptedState_delivered (w : CmdWord) (s : State) (i : Instr) :
    (acceptedState w s i).delivered = s.delivered := by
  cases i <;> rfl

/-- An accepted operation makes the block busy (R30, R130). -/
theorem acceptedState_busy {w : CmdWord} {i : Instr} (hd : decodeCmd w = .ok i) :
    (acceptedState w s i).seq ≠ .sIdle := by
  rcases decodeCmd_cases hd with
    ⟨-, rfl⟩ | ⟨-, rfl⟩ | ⟨-, rfl⟩ | ⟨-, rfl⟩ | ⟨-, rfl⟩ | ⟨-, rfl⟩
  all_goals simp [acceptedState, loadCrcByte]

theorem requestState_busy (h : requestState s.seq = true) : s.seq ≠ .sIdle := by
  intro hq
  simp [requestState, hq] at h

/-- Settles O28: an accepting step moves one command into progress, a delivery moves it out, and no other
step moves one. -/
theorem oneResponsePerCommand : Obligations.OneResponsePerCommand := by
  intro s t _ hr h
  cases step_cases h with
  | reset hr' => simp [hr] at hr'
  | waits | ignores | issues | item => rfl
  | accepts hs w rest i hc hd =>
    rw [inProgress_idle hs.2, inProgress_busy (acceptedState_busy hd), hc]
    simp
  | rejects hs w rest e hc =>
    rw [inProgress_idle hs.2, inProgress_busy (s := acceptIllegal w _) (by simp [acceptIllegal]), hc]
    simp [acceptIllegal]
  | delivers hs hq =>
    rw [inProgress_idle (s := deliver s) rfl, inProgress_busy (s := s) (by simp [hq])]
    simp [deliver, Nat.add_assoc, Nat.add_comm 1]
  | moves _ h1 =>
    obtain ⟨-, -, hc, -, -, -, hd, -, -, hq⟩ := internal_frame s
    rw [inProgress_busy h1, inProgress_busy (hq h1), hc, hd]
  | done _ r items hp d rest _ _ hc =>
    obtain ⟨hq, hq'⟩ := completeRequest_busy hc
    have hs := completeRequest_sameChannels rfl hc
    rw [inProgress_busy (s := s) hq, inProgress_busy hq', hs.cmds, hs.delivered]
    rfl
  | fails _ r items hp d rest _ hq =>
    rw [inProgress_busy (s := s) (requestState_busy hq),
      inProgress_busy (s := abortWith _ _ _) (by simp [abortWith])]
    rfl

end Sys2Proof.Machine
end

section
/-! SUPPORT. The pseudo-operation `CRC8` (30_encoding.md R98): each of its commands is answered, and the
answers are the CRCs of the bytes so far. -/

namespace Sys2Proof.Machine

variable {s t u : State}

theorem argByte_append (hi : BitVec 56) (b : Byte) : argByte (hi ++ b) = b :=
  BitVec.extractLsb'_append_eq_right

/-- With no bit iteration left, `S_CRC_RUN` answers with `ACC` (R114). -/
theorem step_crcRun_end (h : Running s) (hq : s.seq = .sCrcRun) (hb : s.bitcnt = 0#4) :
    step s = .next (respond .ok 0#8 (s.acc.setWidth 16) s) := by
  rw [step_internal h (by simp [hq]) (by simp [hq]) (by simp [engineRequest, hq])]
  simp [internalStep, hq, crcRunStep, hb, BitVec.setWidth_eq_append]

/-- `S_CRC_RUN` from the load on: eight bit iterations, then the answer (R114). -/
theorem reaches_crcRun (h : Running s) (hq : s.seq = .sCrcRun) (hb : s.bitcnt = 8#4) :
    Reaches s (respond .ok 0#8 ((crcBits 8 s.acc).setWidth 16)
      { s with acc := crcBits 8 s.acc, bitcnt := 0#4 }) :=
  (reaches_bits 8 (Nat.le_refl 8) h (.inl hq) hb).trans
    (.one (step_crcRun_end (s := { s with acc := crcBits 8 s.acc, bitcnt := 0#4 }) h hq rfl))

/-- `CRCBYTE b` from its acceptance to its response (R114). -/
theorem reaches_crcbyte {hi : BitVec 56} {b : Byte} {rest : List CmdWord} (h : Ready s)
    (hc : s.cmds = cmdWord 0x09#8 (hi ++ b) :: rest) :
    Reaches s { s with
      cmds := rest, op := 0x09#8, arg := hi ++ b, acc := crcByte s.acc b, bitcnt := 0#4,
      rsp := rspWord .ok 0#8 ((crcByte s.acc b).setWidth 16), rspValid := true, seq := .sRespond } := by
  have hd := decodeCmd_crcbyte hi b
  have h1 := (step_command h hc hd).trans (exec_accept (s := { s with cmds := rest }) hd h.2)
  simp only [acceptedState, cmdOp_cmdWord, cmdArg_cmdWord, argByte_append] at h1
  exact .head h1 (reaches_crcRun h.1 rfl rfl)

/-- The response to a CRC operation that leaves `ACC` at this value (R113, R114). -/
def crcResponse (acc : Byte) : RspWord := rspWord .ok 0#8 (acc.setWidth 16)

/-- The block comes from `s` to `t` by CRC operations alone, all answered, which left `ACC` at these values
in turn; it is ready for `rest`, and only `ACC` can differ of what the other operations read. -/
structure CrcAnswered (s t : State) (accs : List Byte) (rest : List CmdWord) : Prop where
  reaches : Reaches s t
  ready : Ready t
  rspReady : t.rspReady = s.rspReady
  cmds : t.cmds = rest
  trace : t.trace = s.trace
  devlist : t.devlist = s.devlist
  sp : t.sp = s.sp
  delivered : t.delivered = s.delivered ++ accs.map crcResponse

theorem CrcAnswered.trans {l l' : List Byte} {mid rest : List CmdWord} (h : CrcAnswered s t l mid)
    (k : CrcAnswered t u l' rest) : CrcAnswered s u (l ++ l') rest where
  reaches := h.reaches.trans k.reaches
  ready := k.ready
  rspReady := k.rspReady.trans h.rspReady
  cmds := k.cmds
  trace := k.trace.trans h.trace
  devlist := k.devlist.trans h.devlist
  sp := k.sp.trans h.sp
  delivered := by rw [k.delivered, h.delivered, List.map_append, List.append_assoc]

/-- `CRCCLR` with the delivery of its response (R113, R132). -/
theorem crcAnswered_crcclr {arg : BitVec 64} {rest : List CmdWord} (h : Ready s)
    (hy : s.rspReady = true) (hc : s.cmds = cmdWord 0x08#8 arg :: rest) :
    ∃ t, CrcAnswered s t [0#8] rest ∧ t.acc = 0#8 := by
  have hd := decodeCmd_crcclr arg
  have h1 := (step_command h hc hd).trans (exec_accept (s := { s with cmds := rest }) hd h.2)
  refine ⟨_, ⟨.head h1 (.one (step_response h.1 rfl hy)), ⟨h.1, rfl⟩, ?_, ?_, ?_, ?_, ?_, ?_⟩, ?_⟩
  all_goals rfl

/-- `CRCBYTE b` with the delivery of its response (R114, R132). -/
theorem crcAnswered_crcbyte {hi : BitVec 56} {b : Byte} {rest : List CmdWord} (h : Ready s)
    (hy : s.rspReady = true) (hc : s.cmds = cmdWord 0x09#8 (hi ++ b) :: rest) :
    ∃ t, CrcAnswered s t [crcByte s.acc b] rest ∧ t.acc = crcByte s.acc b := by
  refine ⟨_, ⟨(reaches_crcbyte h hc).trans (.one (step_response h.1 rfl hy)), ⟨h.1, rfl⟩, ?_, ?_, ?_,
    ?_, ?_, ?_⟩, ?_⟩
  all_goals rfl

/-- The CRCs of the first `k` bytes, for `k` from 0 to all of them (R98). -/
def crcsSoFar (bytes : List Byte) : List Byte :=
  (List.range (bytes.length + 1)).map fun k => crc8 (bytes.take k)

/-- One byte more adds one CRC, that of all the bytes. -/
theorem crcsSoFar_append (bytes : List Byte) (b : Byte) :
    crcsSoFar (bytes ++ [b]) = crcsSoFar bytes ++ [crc8 (bytes ++ [b])] := by
  rw [crcsSoFar, List.length_append, List.length_singleton, List.range_succ, List.map_append]
  congr 1
  · refine List.map_congr_left fun k hk => ?_
    rw [List.take_append_of_le_length (Nat.le_of_lt_succ (List.mem_range.1 hk))]
  · simp [List.take_of_length_le]

/-- `CRC8`, by induction over its bytes from the last one: the words of all but the last come first, and the
last byte's word is what is left after them. -/
theorem crcAnswered_crc8 (bytes : List Byte) {rest : List CmdWord} (h : Ready s)
    (hy : s.rspReady = true) (hc : s.cmds = assemble [.crc8 bytes] ++ rest) :
    ∃ t, CrcAnswered s t (crcsSoFar bytes) rest ∧ t.acc = crc8 bytes := by
  rw [assemble_crc8] at hc
  induction bytes using List.reverseRecOn generalizing rest with
  | nil => exact crcAnswered_crcclr h hy hc
  | append_singleton bytes b ih =>
    obtain ⟨t, ht, ha⟩ := ih (rest := cmdWord 0x09#8 (0#56 ++ b) :: rest) (by simpa using hc)
    obtain ⟨u, hu, hb⟩ := crcAnswered_crcbyte ht.ready (ht.rspReady.trans hy) ht.cmds
    rw [ha, ← crc8_append] at hu hb
    exact ⟨u, crcsSoFar_append bytes b ▸ ht.trans hu, hb⟩

/-- Settles O43: `CRC8` is `CRCCLR` and one `CRCBYTE` a byte, each answered with the CRC so far. -/
theorem crcSequenceComputes : Obligations.CrcSequenceComputes := by
  intro s bytes rest h hy hc
  obtain ⟨t, ht, ha⟩ := crcAnswered_crc8 bytes h hy hc
  refine ⟨t, ht.reaches, ht.ready, ht.cmds, ha, ht.trace, ht.devlist, ht.sp, ?_⟩
  rw [ht.delivered, crcsSoFar, List.map_map]
  rfl

end Sys2Proof.Machine
end

section
/-! SUPPORT. The CRC as a function (40_crc8.md R110 to R118): one iteration, iterations in a row, bytes and
byte sequences. -/

namespace Sys2Proof.Machine

/-! ## One iteration -/

/-- Bit `i` after an iteration: bit `i + 1` shifted down, and the feedback where the polynomial has a 1
(R111). -/
theorem crcBit_getLsbD (acc : Byte) (i : Nat) :
    (crcBit acc).getLsbD i =
      xor (acc.getLsbD (i + 1)) (acc.getLsbD 0 && Config.crcPolyReflected.getLsbD i) := by
  rw [crcBit_eq, BitVec.getLsbD_xor, BitVec.getLsbD_ushiftRight, Nat.add_comm 1 i]
  cases acc.getLsbD 0 <;> simp

/-- Bit 7 after an iteration is the feedback bit, so it says what bit 0 was, and with it what was shifted
down (R111). -/
theorem crcBit_injective : Function.Injective crcBit := by
  intro a b h
  have hbit (i : Nat) : (crcBit a).getLsbD i = (crcBit b).getLsbD i := by rw [h]
  simp only [crcBit_getLsbD] at hbit
  have h0 : a.getLsbD 0 = b.getLsbD 0 := by simpa [Config.crcPolyReflected] using hbit 7
  apply BitVec.eq_of_getLsbD_eq
  rintro (_ | i) _
  · exact h0
  · have hi := hbit i
    rwa [h0, Bool.xor_left_inj] at hi

theorem crcBit_bijective : Function.Bijective crcBit :=
  Finite.injective_iff_bijective.1 crcBit_injective

/-- Settles O35: the polynomial has ones in bits 2, 3 and 7, and the iteration is an injection of a finite
type. -/
theorem crcBitTable : Obligations.CrcBitTable := by
  refine ⟨fun acc => ?_, crcBit_bijective, crcBit_zero⟩
  simp only [crcBit_getLsbD]
  simp [Config.crcPolyReflected]

/-! ## Iterations in a row -/

theorem crcBits_eq_iterate (n : Nat) (a : Byte) : crcBits n a = crcBit^[n] a := by
  induction n generalizing a with
  | zero => rfl
  | succ n ih => exact ih (crcBit a)

theorem crcBits_add (m n : Nat) (a : Byte) : crcBits (m + n) a = crcBits m (crcBits n a) := by
  simp only [crcBits_eq_iterate, Function.iterate_add_apply]

/-- The last of `n + 1` iterations. -/
theorem crcBits_succ_last (n : Nat) (a : Byte) : crcBits (n + 1) a = crcBit (crcBits n a) := by
  rw [Nat.add_comm, crcBits_add]
  rfl

theorem crcBits_injective (n : Nat) : Function.Injective (crcBits n) := by
  rw [show crcBits n = crcBit^[n] from funext (crcBits_eq_iterate n)]
  exact crcBit_injective.iterate n

theorem crcBits_eq_zero_iff (n : Nat) (a : Byte) : crcBits n a = 0#8 ↔ a = 0#8 := by
  rw [← (crcBits_injective n).eq_iff (a := a), crcBits_zero]

/-- 127 iterations bring 0x80 back, in four runs that are short enough to compute. -/
theorem crcBits_period : crcBits 127 0x80#8 = 0x80#8 := by
  have h1 : crcBits 32 0x80#8 = 0xD9#8 := by simp [crcBits, crcBit, Config.crcPolyReflected]
  have h2 : crcBits 32 0xD9#8 = 0x92#8 := by simp [crcBits, crcBit, Config.crcPolyReflected]
  have h3 : crcBits 32 0x92#8 = 0xE6#8 := by simp [crcBits, crcBit, Config.crcPolyReflected]
  have h4 : crcBits 31 0xE6#8 = 0x80#8 := by simp [crcBits, crcBit, Config.crcPolyReflected]
  rw [show 127 = 31 + (32 + (32 + 32)) from rfl]
  simp only [crcBits_add, h1, h2, h3, h4]

/-- 127 is prime, so fewer iterations do not bring 0x80 back. -/
theorem minimalPeriod_crcBit : Function.minimalPeriod crcBit 0x80#8 = 127 := by
  have : Fact (Nat.Prime 127) := ⟨by norm_num⟩
  refine Function.minimalPeriod_eq_prime ?_ (by decide : ¬ crcBit 0x80#8 = 0x80#8)
  exact (crcBits_eq_iterate 127 0x80#8).symm.trans crcBits_period

/-- Different numbers of iterations below 127 take 0x80 to different values. -/
theorem crcBits_inj_of_lt {m n : Nat} (hm : m < 127) (hn : n < 127)
    (h : crcBits m 0x80#8 = crcBits n 0x80#8) : m = n := by
  simp only [crcBits_eq_iterate] at h
  exact Function.iterate_injOn_Iio_minimalPeriod (minimalPeriod_crcBit ▸ hm)
    (minimalPeriod_crcBit ▸ hn) h

/-! ## One byte -/

@[simp] theorem crcByte_zero : crcByte 0#8 0#8 = 0#8 := crcBits_zero 8

/-- A byte is taken in linearly (R118). -/
theorem crcByte_xor (a a' b b' : Byte) :
    crcByte (a ^^^ a') (b ^^^ b') = crcByte a b ^^^ crcByte a' b' := by
  rw [crcByte, crcByte, crcByte, ← crcBits_xor]
  congr 1
  ac_rfl

/-- A byte clears the accumulator exactly when it equals it (R117). -/
theorem crcByte_eq_zero_iff (a b : Byte) : crcByte a b = 0#8 ↔ a = b :=
  (crcBits_eq_zero_iff 8 (a ^^^ b)).trans BitVec.xor_eq_zero_iff

/-- The serial iteration with the low bit of `x` is the iteration after all of `x` is XORed in, with the
rest of `x` taken out again (R116). -/
theorem crcBit_xor_eq_serial (a x : Byte) :
    crcBit (a ^^^ x) = crcSerialBit a (x.getLsbD 0) ^^^ (x >>> 1) := by
  rw [crcBit, crcSerialBit, BitVec.getLsbD_xor, BitVec.ushiftRight_xor_distrib]
  split
  · ac_rfl
  · rfl

/-- After `n` serial iterations, what is left of the byte is all that the register form is ahead by
(R116). -/
theorem crcBits_xor_eq_serial (n : Nat) (a x : Byte) :
    crcBits n (a ^^^ x) =
      (List.range n).foldl (fun c i => crcSerialBit c (x.getLsbD i)) a ^^^ (x >>> n) := by
  induction n with
  | zero => simp [crcBits]
  | succ n ih =>
    rw [crcBits_succ_last, ih, crcBit_xor_eq_serial, List.range_succ, List.foldl_append,
      ← BitVec.shiftRight_add]
    simp

/-- Settles O36: after eight iterations nothing is left of the byte. -/
theorem serialFormAgrees : Obligations.SerialFormAgrees := by
  intro acc b
  rw [crcByte, crcBits_xor_eq_serial, BitVec.ushiftRight_eq_zero (Nat.le_refl 8), BitVec.xor_zero,
    crcByteSerial]

/-! ## Byte sequences -/

/-- A byte behind a sequence gives 0 exactly when it is the CRC of the sequence (R117). -/
theorem crc8_append_eq_zero_iff (bytes : List Byte) (b : Byte) :
    crc8 (bytes ++ [b]) = 0#8 ↔ crc8 bytes = b := by
  rw [crc8_append, crcByte_eq_zero_iff]

/-- Settles O37: both parts say when the byte behind a sequence is its CRC. -/
theorem residueIsZero : Obligations.ResidueIsZero :=
  ⟨fun bytes => (crc8_append_eq_zero_iff bytes _).2 rfl,
    fun bytes b _ => (crc8_append_eq_zero_iff bytes b).symm⟩

/-- The CRC is linear in the bytes and in the accumulator it begins with (R118). -/
theorem foldl_crcByte_xor {x y : List Byte} (h : x.length = y.length) (a b : Byte) :
    (List.zipWith (· ^^^ ·) x y).foldl crcByte (a ^^^ b) =
      x.foldl crcByte a ^^^ y.foldl crcByte b := by
  induction x generalizing y a b with
  | nil =>
    obtain rfl := List.length_eq_zero_iff.1 h.symm
    rfl
  | cons u x ih =>
    cases y with
    | nil => cases h
    | cons v y =>
      simp only [List.zipWith_cons_cons, List.foldl_cons, crcByte_xor]
      exact ih (Nat.succ.inj h) _ _

theorem crc8_xor {x y : List Byte} (h : x.length = y.length) :
    crc8 (List.zipWith (· ^^^ ·) x y) = crc8 x ^^^ crc8 y :=
  foldl_crcByte_xor h 0#8 0#8

@[simp] theorem crc8_zero_cons (bytes : List Byte) : crc8 (0#8 :: bytes) = crc8 bytes := by
  rw [crc8, List.foldl_cons]
  exact congrArg (bytes.foldl crcByte) crcByte_zero

/-- Zero bytes at the front do not change the CRC (R118). -/
@[simp] theorem crc8_zeros_append (n : Nat) (bytes : List Byte) :
    crc8 (List.replicate n 0#8 ++ bytes) = crc8 bytes := by
  induction n with
  | zero => rfl
  | succ n ih => rw [List.replicate_succ, List.cons_append, crc8_zero_cons, ih]

@[simp] theorem crc8_zeros (n : Nat) : crc8 (List.replicate n 0#8) = 0#8 := by
  simpa using crc8_zeros_append n []

/-- A zero byte at the end is eight more iterations. -/
theorem crc8_append_zeros (n : Nat) (bytes : List Byte) :
    crc8 (bytes ++ List.replicate n 0#8) = crcBits (8 * n) (crc8 bytes) := by
  induction n with
  | zero => simp [crcBits]
  | succ n ih =>
    rw [List.replicate_succ', ← List.append_assoc, crc8_append, ih, crcByte, BitVec.xor_zero,
      ← crcBits_add, Nat.mul_succ, Nat.add_comm]

/-- Settles O38: each byte is taken in linearly, and a zero byte leaves a zero accumulator as it is. -/
theorem crcLinear : Obligations.CrcLinear :=
  ⟨fun _ _ => crc8_xor, crc8_zeros, crc8_zero_cons⟩

/-- Settles O40: the bytes are literals, and the eight iterations of each of them compute. -/
theorem crcKnownValues : Obligations.CrcKnownValues := by
  refine ⟨crc8_nil, ?_, ?_, crc8_zeros 8, ?_, ?_⟩
  all_goals simp [crc8, crcByte, crcBits, crcBit, Config.crcInit, Config.crcPolyReflected]

/-! ## One and two wrong bits in a scratchpad -/

/-- A scratchpad is valid exactly when the CRC of all nine bytes is 0 (R117, R140). -/
theorem scratchpadValid_iff (sp : Vector Byte 9) : scratchpadValid sp ↔ crc8 sp.toList = 0#8 := by
  have hsplit : crcCovered sp ++ [sp[8]] = sp.toList := by
    have h9 : sp.toList.take 9 = sp.toList := List.take_of_length_le (by simp)
    simpa [crcCovered, h9] using List.take_append_getElem (l := sp.toList) (i := 8) (by simp)
  rw [scratchpadValid, ← crc8_append_eq_zero_iff, hsplit]

/-- Nine bytes with the one bit numbered `n` set. -/
def errorBytes (n : Nat) : List Byte := (List.replicate 9 0#8).set (n / 8) (1#8 <<< (n % 8))

/-- To flip a bit is to XOR the bytes in which it alone is set. -/
theorem flipBit_toList (sp : Vector Byte 9) (n : Nat) :
    (flipBit sp n).toList = List.zipWith (· ^^^ ·) sp.toList (errorBytes n) := by
  apply List.ext_getElem
  · simp [errorBytes]
  · intro i _ _
    by_cases h : n / 8 = i <;>
      simp [flipBit, errorBytes, h, -List.reduceReplicate]

/-- Each bit is 0x80, shifted down by iterations whose feedback bit is 0. -/
theorem shiftLeft_eq_crcBits {j : Nat} (hj : j < 8) : 1#8 <<< j = crcBits (7 - j) 0x80#8 := by
  revert j
  decide

/-- The CRC of a single wrong bit: 0x80, iterated once for each later bit of the scratchpad and for the
eight bits of its own byte (R118). -/
theorem crc8_errorBytes {n : Nat} (hn : n < 72) : crc8 (errorBytes n) = crcBits (79 - n) 0x80#8 := by
  have hk : n / 8 < 9 := by omega
  have hsplit : errorBytes n =
      List.replicate (n / 8) 0#8 ++ ([1#8 <<< (n % 8)] ++ List.replicate (8 - n / 8) 0#8) := by
    simp [errorBytes, List.set_eq_take_append_cons_drop, hk, hk.le, -List.reduceReplicate]
  have hcount : 8 * (8 - n / 8) + (8 + (7 - n % 8)) = 79 - n := by omega
  calc crc8 (errorBytes n)
      = crcBits (8 * (8 - n / 8)) (crcByte 0#8 (1#8 <<< (n % 8))) := by
        rw [hsplit, crc8_zeros_append, crc8_append_zeros]
        rfl
    _ = crcBits (8 * (8 - n / 8)) (crcBits (8 + (7 - n % 8)) 0x80#8) := by
        rw [crcByte, BitVec.zero_xor, shiftLeft_eq_crcBits (Nat.mod_lt n (by decide)), crcBits_add 8]
    _ = crcBits (79 - n) 0x80#8 := by rw [← crcBits_add, hcount]

theorem crc8_flipBit (sp : Vector Byte 9) {n : Nat} (hn : n < 72) :
    crc8 (flipBit sp n).toList = crc8 sp.toList ^^^ crcBits (79 - n) 0x80#8 := by
  rw [flipBit_toList, crc8_xor (by simp [errorBytes]), crc8_errorBytes hn]

/-- Settles O39: the CRC of one wrong bit is not 0, since the iteration is an injection that fixes 0; the
CRCs of two wrong bits differ, since their distance is below the period 127. -/
theorem oneAndTwoBitErrorsCaught : Obligations.OneAndTwoBitErrorsCaught := by
  intro sp m n hv hm hn
  have hz : crc8 sp.toList = 0#8 := (scratchpadValid_iff sp).1 hv
  simp only [scratchpadValid_iff, crc8_flipBit _ hm, crc8_flipBit _ hn, hz, BitVec.zero_xor,
    crcBits_eq_zero_iff, BitVec.xor_eq_zero_iff]
  refine ⟨by decide, fun hne h => hne ?_⟩
  have := crcBits_inj_of_lt (m := 79 - m) (n := 79 - n) (by omega) (by omega) h
  omega

end Sys2Proof.Machine
end

section
/-! SUPPORT. The steps of the CRC unit, one bit iteration at a time (40_crc8.md R112, R114, 41_engine_ops.md
R138, R139). -/

namespace Sys2Proof.Machine

variable {s : State}

/-- Settles O42: the run of a `CRCBYTE` from its acceptance to its response. -/
theorem crcbyteComputes : Obligations.CrcbyteComputes :=
  fun _ _ _ _ h hc => reaches_crcbyte h hc

/-- While bits are left, both states of the CRC unit take an iteration (R112). -/
theorem step_crcBit (h : Running s) (hq : s.seq = .sCrcRun ∨ s.seq = .sRdCrc)
    (hb : 0#4 < s.bitcnt) : step s = .next (crcBitStep s) := by
  have hne : s.bitcnt ≠ 0#4 := by bv_omega
  rcases hq with hq | hq
  all_goals
    rw [step_internal h (by simp [hq]) (by simp [hq]) (by simp [engineRequest, hq])]
    simp [internalStep, hq, crcRunStep, rdCrcStep, hb, hne]

/-- With all nine bytes stored, the CRC phase of `READ` begins (R138). -/
theorem step_startCrcPhase (h : Running s) (hq : s.seq = .sRdBytes) (hn : 9#4 ≤ s.bytecnt) :
    step s = .next (startCrcPhase s) := by
  have hn' : ¬ s.bytecnt < 9#4 := by bv_omega
  rw [step_internal h (by simp [hq]) (by simp [hq]) (by simp [engineRequest, hq, hn'])]
  simp [internalStep, hq]

/-- In the CRC phase with no iteration left, the next byte is loaded while there is one (R139). -/
theorem step_rdCrc_byte (h : Running s) (hq : s.seq = .sRdCrc) (hb : s.bitcnt = 0#4) :
    step s = .next (if s.bytecnt < 8#4 then { loadCrcByte (spByte s) s with bytecnt := s.bytecnt + 1#4 }
      else { s with seq := .sRdCheck }) := by
  rw [step_internal h (by simp [hq]) (by simp [hq]) (by simp [engineRequest, hq])]
  simp [internalStep, hq, rdCrcStep, hb]

theorem spByte_eq_getElem {k : Nat} (hk : k < 9) (hn : s.bytecnt.toNat = k) :
    spByte s = s.sp[k] := by
  simp [spByte, hn, hk]

/-- Settles O25: a step for each branch of the two states' pseudocode, and the turn to the CRC phase. -/
theorem crcUnitSteps : Obligations.CrcUnitSteps := by
  intro s h
  refine ⟨fun hq => step_crcBit h (.inl hq), step_crcRun_end h, step_startCrcPhase h,
    fun hq => step_crcBit h (.inr hq), fun k hq hb hn hk => ?_, fun hq hb hn => ?_⟩
  · have hk' : s.bytecnt.toNat = k := by rw [hn, BitVec.toNat_ofNat]; omega
    rw [step_rdCrc_byte h hq hb, if_pos (by bv_omega), spByte_eq_getElem (by omega) hk']
    rfl
  · rw [step_rdCrc_byte h hq hb, if_neg (by bv_omega)]

end Sys2Proof.Machine
end

section
/-! SUPPORT. The operations of the engine, one step at a time (41_engine_ops.md R130 to R140). -/

namespace Sys2Proof.Machine

variable {s s' : State}

/-! ## The words the block attends to -/

/-- Settles O7: the word that decodes is taken, and its row is run. -/
theorem stepRunsAcceptedCommand : Obligations.StepRunsAcceptedCommand :=
  fun _ _ _ _ h hc hd => step_command h hc hd

/-- Settles O9: the step and the row of the waiting word both deliver it. -/
theorem stepRunsWaitingResponse : Obligations.StepRunsWaitingResponse :=
  fun _ _ h hq hy hd => (step_response h hq hy).trans (exec_response hd hq hy).symm

/-- Settles O27: each of the five rows delivers its own word. -/
theorem responseDelivered : Obligations.ResponseDelivered := by
  refine ⟨fun s info data hq hy => ⟨?_, ?_, ?_, ?_, ?_⟩, fun s h => step_response_held h⟩
  all_goals exact fun hw => deliverWord_waiting _ hq hy hw

/-! ## The acceptance of a command -/

/-- While the block is busy the row of a command does nothing (R130; log 12). -/
theorem exec_command_held {i : Instr} (hq : s.seq ≠ .sIdle) (hf : i.format = .cmd) :
    exec i s = .next s := by
  cases i with
  | scan | convert | wait | read | crcclr | crcbyte =>
    simp only [exec, execScan, execConvert, execWait, execRead, execCrcclr, execCrcbyte]
    exact acceptCmd_held _ _ _ hq
  | tReset | tSelect | tWrite | tRead | tScan | cmdConvertT | cmdReadScratchpad => cases hf
  | rspOk | rspInvalid | rspTransportFail | rspIllegalOp | rspListOverflow => cases hf
  | tansDone | tansFail | tansItem => cases hf

/-- A busy block takes no word from the command channel (R130). -/
theorem step_cmds_of_busy (hq : s.seq ≠ .sIdle) (h : step s = .next s') : s'.cmds = s.cmds := by
  cases step_cases h with
  | accepts hs | rejects hs => exact absurd hs.2 hq
  | moves =>
    obtain ⟨-, -, hc, -⟩ := internal_frame s
    exact hc
  | done _ _ _ _ _ _ _ _ hc => exact (completeRequest_sameChannels rfl hc).cmds
  | reset | waits | ignores | delivers | issues | fails | item => rfl

/-- The step of a ready block accepts the operation of the presented word (R130). -/
theorem step_accepts {op : Byte} {arg : BitVec 64} {rest : List CmdWord} {i : Instr} (h : Ready s)
    (hc : s.cmds = cmdWord op arg :: rest) (hd : decodeCmd (cmdWord op arg) = .ok i) :
    step s = .next (acceptedState (cmdWord op arg) { s with cmds := rest } i) :=
  (step_command h hc hd).trans (exec_accept (s := { s with cmds := rest }) hd h.2)

/-- A command with a reserved op is answered by the step that takes it (R164). -/
theorem step_reserved_op {w : CmdWord} {rest : List CmdWord} (h : Ready s) (hc : s.cmds = w :: rest)
    (hw : opAssigned (cmdOp w) = false) :
    step s = .next (acceptIllegal w { s with cmds := rest }) :=
  step_illegal h hc ((decodeCmd_reserved_iff w).2 hw)

/-- An idle block begins `CRCBYTE` with the load of its byte (R114; log 9). -/
theorem exec_crcbyte_idle (hq : s.seq = .sIdle) (hi : BitVec 56) (b : Byte) :
    exec (.crcbyte hi b) s = .next { s with
      op := 0x09#8, arg := hi ++ b, acc := s.acc ^^^ b, bitcnt := 8#4, seq := .sCrcRun } := by
  have hx := exec_accept (decodeCmd_crcbyte hi b) hq
  simp only [acceptedState, cmdOp_cmdWord, cmdArg_cmdWord, argByte_append] at hx
  exact hx

/-- Settles O12: an idle block latches the command and begins the operation, a busy one does neither. -/
theorem commandAccepted : Obligations.CommandAccepted := by
  refine ⟨fun s hq => ⟨?_, ?_, ?_, ?_, ?_, exec_crcbyte_idle hq⟩,
    fun s rest h => ⟨fun x hc => step_command h hc (decodeOfEncode (.scan x)),
      fun x hc => step_command h hc (decodeOfEncode (.convert x)),
      fun x hc => step_command h hc (decodeOfEncode (.wait x)),
      fun a hc => step_command h hc (decodeOfEncode (.read a)),
      fun x hc => step_command h hc (decodeCmd_crcclr x),
      fun hi b hc => step_command h hc (decodeCmd_crcbyte hi b),
      fun w hc hw => step_reserved_op h hc hw⟩,
    fun s hq i hf => exec_command_held hq hf, fun s t hq h => step_cmds_of_busy hq h⟩
  all_goals
    intro x
    simp only [exec, execScan, execConvert, execWait, execRead, execCrcclr]
    exact acceptCmd_idle _ _ _ hq

/-! ## A request is done -/

theorem tdataByte_eq_setWidth (t : BitVec 64) : tdataByte t = t.setWidth 8 :=
  (BitVec.setWidth_eq_extractLsb' (by decide)).symm

/-- A `DONE` beat closes the request and takes the operation on (R88). -/
theorem exec_tansDone {r : Request} {items : List Addr} {t : BitVec 64}
    (hp : s.port = .waiting r items)
    (hc : completeRequest t items (closeRequest (recordBeat (doneBeat t) s)) = some s') :
    exec (.tansDone t) s = .next s' := by
  simp [exec, execTansDone, hp, hc]

/-- Settles O16: each state of `CONVERT` and of the command phase of `READ` has its successor. -/
theorem doneContinuesOperation : Obligations.DoneContinuesOperation := by
  rintro s _ r items t hp rfl
  refine ⟨fun hq => ?_, fun hq => ?_, fun hq => ?_, fun hq => ?_, fun hq => ?_, fun hq => ?_⟩
  all_goals
    refine exec_tansDone hp ?_
    simp [completeRequest, hq, closeRequest, recordBeat]

/-- Settles O17: the byte is set at index `BYTECNT`, which is below 9. -/
theorem readByteStored : Obligations.ReadByteStored := by
  intro s r items t hp hq _
  refine ⟨s.sp.setIfInBounds s.bytecnt.toNat (tdataByte t), exec_tansDone hp ?_, fun k hk => ?_⟩
  · simp [completeRequest, hq, closeRequest, recordBeat, storeSp]
  · rw [Vector.getElem_setIfInBounds, tdataByte_eq_setWidth]
    simp only [eq_comm]

/-! ## The engine's own steps -/

/-- With the whole list done, the step is the end of `CONVERT` (R133). -/
theorem step_finishConvert (h : Running s) (hq : s.seq = .sConvReset) (hd : s.devidx = s.devcnt) :
    step s = .next (finishConvert s) := by
  rw [step_internal h (by simp [hq]) (by simp [hq]) (by simp [engineRequest, hq, hd])]
  simp [internalStep, hq]

/-- In `S_WAIT` the step is a tick (R135). -/
theorem step_waitStep (h : Running s) (hq : s.seq = .sWait) : step s = .next (waitStep s) := by
  rw [step_internal h (by simp [hq]) (by simp [hq]) (by simp [engineRequest, hq])]
  simp [internalStep, hq]

/-- In `S_RD_CHECK` the step is the check (R140). -/
theorem step_rdCheckStep (h : Running s) (hq : s.seq = .sRdCheck) :
    step s = .next (rdCheckStep s) := by
  rw [step_internal h (by simp [hq]) (by simp [hq]) (by simp [engineRequest, hq])]
  simp [internalStep, hq]

/-- Settles O23: the end of `CONVERT` raises its response and nothing else. -/
theorem convertEndsAtListEnd : Obligations.ConvertEndsAtListEnd :=
  fun _ h hq hd => step_finishConvert h hq hd

/-- A tick with ticks left counts one off (R135). -/
theorem step_tick (h : Running s) (hq : s.seq = .sWait) (hw : 0 < s.waitcnt) :
    step s = .next { s with waitcnt := s.waitcnt - 1 } := by
  rw [step_waitStep h hq, waitStep, if_pos hw]

/-- The tick that finds none left answers (R135). -/
theorem step_wait_end (h : Running s) (hq : s.seq = .sWait) (hw : s.waitcnt = 0) :
    step s = .next (respond .ok 0#8 0#16 s) := by
  rw [step_waitStep h hq, waitStep, if_neg (by omega)]

/-- Settles O24: a tick has a branch for each of the two cases. -/
theorem waitTick : Obligations.WaitTick :=
  fun _ h hq => ⟨step_tick h hq, step_wait_end h hq⟩

theorem step_check_valid (h : Running s) (hq : s.seq = .sRdCheck) (he : s.acc = s.sp[8]) :
    step s = .next (respond .ok 0#8 (tRaw s.sp) s) := by
  rw [step_rdCheckStep h hq, rdCheckStep, if_pos he]

theorem step_check_invalid (h : Running s) (hq : s.seq = .sRdCheck) (he : s.acc ≠ s.sp[8]) :
    step s = .next (respondInvalid s) := by
  rw [step_rdCheckStep h hq, rdCheckStep, if_neg he]

/-- Settles O26: the check compares `ACC` with the ninth byte; the data bits of `INVALID` are the value
drawn. -/
theorem checkDecidesValidity : Obligations.CheckDecidesValidity :=
  fun _ h hq => ⟨step_check_valid h hq, fun he => ⟨_, step_check_invalid h hq he⟩⟩

/-! ## `WAIT` as a whole -/

/-- `WAIT_TICKS` is a division rounded up (R7). -/
theorem waitTicks_ceil (c : Config) :
    750 * c.fClkHz ≤ 1000 * waitTicks c ∧ 1000 * waitTicks c < 750 * c.fClkHz + 1000 := by
  simp only [waitTicks, Config.tConvMs]
  omega

/-- The first `n` ticks of `WAIT` (R135). -/
theorem run_ticks (n : Nat) (h : Running s) (hq : s.seq = .sWait) (hn : n ≤ s.waitcnt) :
    Host.Core.run Sys2Proof.core n s = .next { s with waitcnt := s.waitcnt - n } := by
  induction n generalizing s with
  | zero => rfl
  | succ n ih =>
    rw [run_succ (M := Sys2Proof.core) n (step_tick h hq (by omega)),
      ih (s := { s with waitcnt := s.waitcnt - 1 }) h hq (Nat.le_sub_one_of_lt hn)]
    simp only [Nat.sub_sub, Nat.add_comm 1]

/-- Settles O46: the accepting step loads `WAIT_TICKS`, each tick takes one off, and the tick at 0 answers. -/
theorem waitRunsItsTicks : Obligations.WaitRunsItsTicks := by
  refine ⟨waitTicks_ceil, fun s x rest h hc => ?_⟩
  have h1 := step_accepts h hc (decodeOfEncode (.wait x))
  simp only [acceptedState, cmdOp_cmdWord, cmdArg_cmdWord] at h1
  have hticks : ∀ n, n ≤ waitTicks s.cfg → Host.Core.run Sys2Proof.core (n + 1) s = .next { s with
      cmds := rest, op := 0x03#8, arg := x, waitcnt := waitTicks s.cfg - n, seq := .sWait } :=
    fun n hn => (run_succ (M := Sys2Proof.core) n h1).trans (run_ticks n h.1 rfl hn)
  have hlast := hticks (waitTicks s.cfg) (Nat.le_refl _)
  rw [Nat.sub_self] at hlast
  have hend := step_wait_end (s := { s with
    cmds := rest, op := 0x03#8, arg := x, waitcnt := 0, seq := .sWait }) h.1 rfl rfl
  exact ⟨hticks, (run_add (M := Sys2Proof.core) 1 hlast).trans
    (run_succ (M := Sys2Proof.core) 0 hend)⟩

end Sys2Proof.Machine
end

section
/-! SUPPORT. Operations that ask the transport, as a whole: `SCAN` with its items, and `CONVERT`, a fixed
sequence of requests cut short at a failure (41_engine_ops.md R131, R133, R143). -/

namespace Sys2Proof.Machine

variable {s t u : State}

/-! ## The requests among the events of the port -/

@[simp] theorem requestsOf_nil : requestsOf [] = [] := rfl

@[simp] theorem requestsOf_append (l m : List PortEvent) :
    requestsOf (l ++ m) = requestsOf l ++ requestsOf m :=
  List.filterMap_append

@[simp] theorem requestsOf_req (r : Request) (l : List PortEvent) :
    requestsOf (.req r :: l) = r :: requestsOf l := rfl

@[simp] theorem requestsOf_ans (w : TansWord) (l : List PortEvent) :
    requestsOf (.ans w :: l) = requestsOf l := rfl

@[simp] theorem requestsOf_answers (ws : List TansWord) : requestsOf (ws.map .ans) = [] := by
  induction ws with
  | nil => rfl
  | cons w ws ih => exact ih

theorem Reaches.of_eq (h : s = t) : Reaches s t := h ▸ .refl s

/-- Where the engine asks for a request, the step sends it (R52). -/
theorem step_sends {i : Instr} {r : Request} (h : Running s) (he : engineRequest s = some i)
    (hi : requestOf i = some r) : step s = .next (sendRequest r s) :=
  (step_engine h he).trans (exec_sends h.2.1 hi)

/-! ## `SCAN` as a whole -/

/-- The items of a scan's answer are kept in order (R88). -/
theorem reaches_items (items : List Addr) {got : List Addr} {rest : List TansWord}
    (hr : s.rst = false) (hl : noLateBeat s) (hp : s.port = .waiting .scan got)
    (ht : s.tans = items.map itemBeat ++ rest) :
    Reaches s { s with
      port := .waiting .scan (got ++ items), tans := rest,
      trace := s.trace ++ (items.map itemBeat).map .ans } := by
  induction items generalizing s got with
  | nil =>
    refine .of_eq ?_
    cases s
    simp_all
  | cons a items ih =>
    have h1 := (step_beat hr hl ht (decodeTans_itemBeat a)).trans
      (scanItemsKeptInOrder _ got a hp)
    have hi := ih (s := { s with
      tans := items.map itemBeat ++ rest, port := .waiting .scan (got ++ [a]),
      trace := s.trace ++ [.ans (itemBeat a)] }) hr hl rfl rfl
    simp only [List.append_assoc, List.cons_append, List.nil_append] at hi
    exact .head h1 hi

/-- The events of a scan on the port: one request, its items and its last beat (R71, R131). -/
def scanEvents (items : List Addr) (last : TansWord) : List PortEvent :=
  .req .scan :: (items.map itemBeat ++ [last]).map .ans

@[simp] theorem requestsOf_scanEvents (items : List Addr) (last : TansWord) :
    requestsOf (scanEvents items last) = [.scan] := by
  simp only [scanEvents, requestsOf_req, requestsOf_answers]

/-- A scan from its request to the last beat of its answer, and that beat's step (R88, R131). -/
theorem reaches_scan_last {items : List Addr} {last : TansWord} {i : Instr}
    {later : List (List TansWord)} (h : Running s) (hq : s.seq = .sScan)
    (ha : s.answers = (items.map itemBeat ++ [last]) :: later) (hd : decodeTans last = .ok i)
    (hs : exec i { s with
      answers := later, port := .waiting .scan items,
      trace := s.trace ++ .req .scan :: (items.map itemBeat).map .ans } = .next t) :
    Reaches s t := by
  have h1 : step s = .next (sendRequest .scan s) :=
    step_sends (i := .tScan) h (by simp [engineRequest, hq]) rfl
  obtain ⟨hr, hp, ht, hl⟩ := h
  have h2 := reaches_items (s := sendRequest .scan s) items (rest := [last]) hr hl rfl
    (by simp [ht, ha])
  refine .head h1 (h2.trans (.one ?_))
  refine Eq.trans (step_beat (rest := []) ?_ ?_ ?_ hd) (Eq.trans ?_ hs)
  · exact hr
  · exact hl
  · rfl
  · simp [sendRequest, ha, ht]

/-- A scan that is done (R131, R165). -/
theorem reaches_scan_done {items : List Addr} {d : BitVec 64} {later : List (List TansWord)}
    (h : Running s) (hq : s.seq = .sScan)
    (ha : s.answers = (items.map itemBeat ++ [doneBeat d]) :: later)
    (hs : completeScan items { s with
      answers := later, trace := s.trace ++ scanEvents items (doneBeat d) } = t) : Reaches s t := by
  subst hs
  refine reaches_scan_last h hq ha (decodeTans_doneBeat d) (exec_tansDone rfl ?_)
  obtain ⟨-, hp, -, -⟩ := h
  simp [completeRequest, closeRequest, recordBeat, hq, scanEvents, ← hp]

/-- A scan that fails (R131, R166). -/
theorem reaches_scan_failed {items : List Addr} {d : BitVec 64} {later : List (List TansWord)}
    (h : Running s) (hq : s.seq = .sScan)
    (ha : s.answers = (items.map itemBeat ++ [failBeat d]) :: later) :
    Reaches s (respond .transportFail (tdataByte d) 0#16 { s with
      answers := later, trace := s.trace ++ scanEvents items (failBeat d) }) := by
  refine reaches_scan_last h hq ha (decodeTans_failBeat d) ?_
  obtain ⟨-, hp, -, -⟩ := h
  simp [exec, execTansFail, hq, requestState, abortWith, respond, recordBeat, scanEvents, hp]

/-- A list fits exactly when no `MAX_DEV` is below its length (R7, R165). -/
theorem fits_iff {c : Config} {n : Nat} : fits c n = true ↔ ∀ m, c.maxDev = some m → n ≤ m := by
  cases hm : c.maxDev <;> simp [fits, hm]

theorem completeScan_fits {items : List Addr} (hf : fits s.cfg items.length = true) :
    completeScan items s =
      respond .ok 0#8 (BitVec.ofNat 16 items.length) { s with devlist := items } := by
  rw [completeScan, if_pos hf]

theorem completeScan_overflow {items : List Addr} (hp : s.port = .free)
    (hf : ¬ fits s.cfg items.length = true) :
    completeScan items s = respond .listOverflow 0#8 0#16 s := by
  rw [completeScan, if_neg hf, abortWith, ← hp]

/-- Settles O44: the scan's one request is answered by its items and its last beat, and a `DONE` asks whether
the items fit. -/
theorem scanComputes : Obligations.ScanComputes := by
  intro s x rest items last d later h hc ha
  have h1 := step_accepts h hc (decodeOfEncode (.scan x))
  simp only [acceptedState, cmdOp_cmdWord, cmdArg_cmdWord] at h1
  refine ⟨s.trace ++ scanEvents items last, by simp, fun hl => ?_, fun hl hm => ?_,
    fun hl m hm hlt => ?_⟩
  all_goals subst hl
  · rw [← tdataByte_eq_setWidth]
    exact .head h1 (reaches_scan_failed h.1 rfl ha)
  · exact .head h1 (reaches_scan_done h.1 rfl ha (completeScan_fits (fits_iff.2 hm)))
  · have hf : ¬ fits s.cfg items.length = true := fun hf => by
      have := fits_iff.1 hf m hm
      omega
    exact .head h1 (reaches_scan_done h.1 rfl ha (completeScan_overflow h.1.2.1 hf))

/-! ## Operations that issue a fixed sequence of requests

`CONVERT` and `READ` issue one request after the other, whatever the answers bring. `st ds` is the state of
the operation once the first requests have been answered by `DONE` beats with the data `ds`; the answers to
come and the trace are put in by `withAnswers`. -/

/-- The state with these answers to come, and this trace so far. -/
def withAnswers (answers : List (List TansWord)) (trace : List PortEvent) (s : State) : State :=
  { s with answers := answers, trace := trace }

/-- In `st ds` the operation asks for the request after the first `ds.length`, and a `DONE` beat takes it on
to `st` of the data so far. -/
structure RequestSequence (requests : List Request) (st : List (BitVec 64) → State) : Prop where
  running : ∀ ds, Running (st ds)
  asks : ∀ (ds : List (BitVec 64)) (r : Request), requests[ds.length]? = some r →
    ∃ i, engineRequest (st ds) = some i ∧ requestOf i = some r
  goesOn : ∀ (ds : List (BitVec 64)) (d : BitVec 64) (later : List (List TansWord))
      (trace : List PortEvent), ds.length < requests.length →
    completeRequest d [] (withAnswers later trace (st ds)) =
      some (withAnswers later trace (st (ds ++ [d])))

section

variable {requests : List Request} {st : List (BitVec 64) → State} {answers later : List (List TansWord)}
  {trace : List PortEvent}

/-- The first requests, each done: they are issued in order (R143). -/
theorem RequestSequence.reaches_done (hseq : RequestSequence requests st) (ds : List (BitVec 64))
    (hn : ds.length ≤ requests.length) (ha : answers = ds.map doneAnswer ++ later) :
    ∃ trace', requestsOf trace' = requestsOf trace ++ requests.take ds.length ∧
      Reaches (withAnswers answers trace (st [])) (withAnswers later trace' (st ds)) := by
  induction ds using List.reverseRecOn generalizing later with
  | nil => exact ⟨trace, by simp, ha ▸ .refl _⟩
  | append_singleton ds d ih =>
    rw [List.length_append, List.length_singleton] at hn ⊢
    obtain ⟨trace', ht, hr⟩ := ih (later := doneAnswer d :: later) (by omega) (by simp [ha])
    obtain ⟨i, he, hi⟩ := hseq.asks ds _ (List.getElem?_eq_getElem hn)
    have hg := hseq.goesOn ds d later (trace' ++ [.req requests[ds.length], .ans (doneBeat d)]) hn
    refine ⟨_, ?_, hr.trans (Machine.reaches_done (hseq.running ds) he hi rfl hg)⟩
    rw [List.take_add_one, List.getElem?_eq_getElem hn]
    simp [ht]

/-- The first requests done and the next one failed: that is the last request (R143, R167). -/
theorem RequestSequence.reaches_failed (hseq : RequestSequence requests st) (ds : List (BitVec 64))
    (hn : ds.length < requests.length) {d : BitVec 64}
    (ha : answers = ds.map doneAnswer ++ [failBeat d] :: later) :
    ∃ trace', requestsOf trace' = requestsOf trace ++ requests.take (ds.length + 1) ∧
      Reaches (withAnswers answers trace (st []))
        (respond .transportFail (tdataByte d) 0#16 (withAnswers later trace' (st ds))) := by
  obtain ⟨trace', ht, hr⟩ := hseq.reaches_done ds hn.le (trace := trace) ha
  obtain ⟨i, he, hi⟩ := hseq.asks ds _ (List.getElem?_eq_getElem hn)
  have hf := Machine.reaches_failed (s := withAnswers ([failBeat d] :: later) trace' (st ds))
    (hseq.running ds) he hi rfl
  refine ⟨trace' ++ [.req requests[ds.length], .ans (failBeat d)], ?_, hr.trans ?_⟩
  · rw [List.take_add_one, List.getElem?_eq_getElem hn]
    simp [ht]
  · obtain ⟨-, hp, -, -⟩ := hseq.running ds
    simpa only [abortWith, withAnswers, hp] using hf

end

/-! ## `CONVERT` as a whole -/

/-- The state of `CONVERT` that issues the first, second or third request of a device (R133). -/
def convertSeq : Nat → Seq
  | 0 => .sConvReset
  | 1 => .sConvSelect
  | _ => .sConvWrite

/-- `CONVERT` after `n` of its requests are done: three for each device (R133). -/
def convertAt (n : Nat) (s : State) : State :=
  { s with devidx := n / 3, seq := convertSeq (n % 3) }

/-- All requests of the first `k` devices are done (R133). -/
theorem convertAt_three_mul (k : Nat) (s : State) :
    convertAt (3 * k) s = { s with devidx := k, seq := .sConvReset } := by
  simp [convertAt, convertSeq]

theorem convertRequests_cons (a : Addr) (l : List Addr) :
    convertRequests (a :: l) =
      .reset :: .select a :: .write Config.cmdConvertT :: convertRequests l := rfl

@[simp] theorem length_convertRequests (l : List Addr) :
    (convertRequests l).length = 3 * l.length := by
  induction l with
  | nil => rfl
  | cons a l ih => simp only [convertRequests_cons, List.length_cons, ih]; omega

/-- The requests of list entry `i` stand from `3 * i` on (R133). -/
theorem convertRequests_getElem? (l : List Addr) (i j : Nat) (hj : j < 3) :
    (convertRequests l)[3 * i + j]? =
      l[i]?.bind fun a => [.reset, .select a, .write Config.cmdConvertT][j]? := by
  induction l generalizing i with
  | nil => rfl
  | cons a l ih =>
    rw [convertRequests_cons]
    cases i with
    | zero => interval_cases j <;> rfl
    | succ i =>
      rw [show 3 * (i + 1) + j = 3 * i + j + 3 by omega]
      exact ih i

/-- In state `n` of `CONVERT` the engine asks for request `n` (R133). -/
theorem convertAt_asks {n : Nat} {r : Request} (hr : (convertRequests s.devlist)[n]? = some r) :
    ∃ i, engineRequest (convertAt n s) = some i ∧ requestOf i = some r := by
  have hget := convertRequests_getElem? s.devlist (n / 3) (n % 3) (Nat.mod_lt n (by decide))
  rw [Nat.div_add_mod, hr, eq_comm, Option.bind_eq_some_iff] at hget
  obtain ⟨a, ha, hj⟩ := hget
  have hlt : n / 3 < s.devlist.length := (List.getElem?_eq_some_iff.1 ha).1
  obtain h0 | h1 | h2 : n % 3 = 0 ∨ n % 3 = 1 ∨ n % 3 = 2 := by omega
  · refine ⟨.tReset, ?_, by simpa [h0, requestOf] using hj⟩
    simp [engineRequest, convertAt, convertSeq, h0, hlt.ne]
  · refine ⟨.tSelect a, ?_, by simpa [h1, requestOf] using hj⟩
    simp [engineRequest, convertAt, convertSeq, h1, devEntry, ha]
  · refine ⟨.tWrite Config.cmdConvertT, ?_, by simpa [h2, requestOf] using hj⟩
    simp [engineRequest, convertAt, convertSeq, h2]

/-- A `DONE` beat takes `CONVERT` from state `n` to state `n + 1` (R133). -/
theorem convertAt_goesOn (n : Nat) (d : BitVec 64) (s : State) :
    completeRequest d [] (convertAt n s) = some (convertAt (n + 1) s) := by
  obtain h0 | h1 | h2 : n % 3 = 0 ∨ n % 3 = 1 ∨ n % 3 = 2 := by omega
  · have hq : (n + 1) / 3 = n / 3 ∧ (n + 1) % 3 = 1 := by omega
    simp [completeRequest, convertAt, convertSeq, h0, hq]
  · have hq : (n + 1) / 3 = n / 3 ∧ (n + 1) % 3 = 2 := by omega
    simp [completeRequest, convertAt, convertSeq, h1, hq]
  · have hq : (n + 1) / 3 = n / 3 + 1 ∧ (n + 1) % 3 = 0 := by omega
    simp [completeRequest, convertAt, convertSeq, h2, hq]

theorem convert_requestSequence (h : Running s) :
    RequestSequence (convertRequests s.devlist) fun ds => convertAt ds.length s where
  running _ := h
  asks _ _ hr := convertAt_asks hr
  goesOn ds d later trace _ := by
    rw [List.length_append, List.length_singleton]
    exact convertAt_goesOn ds.length d (withAnswers later trace s)

/-- `CONVERT` is accepted with none of its requests done (R130). -/
theorem step_accepts_convert {x : BitVec 64} {rest : List CmdWord} (h : Ready s)
    (hc : s.cmds = cmdWord 0x02#8 x :: rest) :
    step s = .next (convertAt 0 { s with cmds := rest, op := 0x02#8, arg := x }) := by
  have h1 := step_accepts h hc (decodeOfEncode (.convert x))
  simp only [acceptedState, cmdOp_cmdWord, cmdArg_cmdWord] at h1
  exact h1

/-- Settles O45: the requests are a fixed sequence, three for each device; behind the last of them the list
is at its end, and a failure before it ends the operation. -/
theorem convertComputes : Obligations.ConvertComputes := by
  intro s x rest ds later h hc
  have h1 := step_accepts_convert h hc
  have hseq := convert_requestSequence (s := { s with cmds := rest, op := 0x02#8, arg := x }) h.1
  refine ⟨fun hn ha => ?_, fun f hn ha => ?_⟩
  · obtain ⟨trace, ht, hr⟩ := hseq.reaches_done ds (by simp [hn]) (trace := s.trace) ha
    rw [List.take_of_length_le (by simp [hn])] at ht
    rw [hn, convertAt_three_mul] at hr
    exact ⟨trace, ht, .head h1 (hr.trans (.one (step_finishConvert h.1 rfl rfl)))⟩
  · obtain ⟨trace, ht, hr⟩ := hseq.reaches_failed ds (by simpa using hn) (trace := s.trace) ha
    rw [tdataByte_eq_setWidth] at hr
    exact ⟨trace, ht, .head h1 hr⟩

end Sys2Proof.Machine
end

section
/-! SUPPORT. `READ` as a whole: twelve requests, the CRC of the eight bytes, the check (41_engine_ops.md
R136 to R142). -/

namespace Sys2Proof.Machine

variable {s t : State}

/-! ## The twelve requests -/

/-- The state of `READ` that issues request `n` (R137, R138). -/
def readSeq : Nat → Seq
  | 0 => .sRdReset
  | 1 => .sRdSelect
  | 2 => .sRdWrite
  | _ => .sRdBytes

/-- The scratchpad once the requests of `READ` have brought `ds`: the fourth answer and those after it bring
the bytes, from `SP[0]` on (R138). -/
def readSp (ds : List (BitVec 64)) (sp : Vector Byte 9) : Vector Byte 9 :=
  Vector.ofFn fun k => (ds[k.val + 3]?.map tdataByte).getD sp[k]

/-- `READ` after its first requests have brought `ds` (R137, R138). -/
def readAt (ds : List (BitVec 64)) (s : State) : State :=
  { s with
    seq := readSeq ds.length
    bytecnt := BitVec.ofNat 4 (ds.length - 3)
    sp := readSp ds s.sp }

theorem readSp_getElem (ds : List (BitVec 64)) (sp : Vector Byte 9) {k : Nat} (hk : k < 9) :
    (readSp ds sp)[k] = (ds[k + 3]?.map tdataByte).getD sp[k] := by
  simp [readSp]

/-- The answers to the command phase bring no byte (R137). -/
theorem readSp_of_length_le {ds : List (BitVec 64)} (h : ds.length ≤ 3) (sp : Vector Byte 9) :
    readSp ds sp = sp := by
  ext k hk
  rw [readSp_getElem ds sp hk, List.getElem?_eq_none (by omega)]
  rfl

/-- One answer more sets one byte more (R138). -/
theorem readSp_append {ds : List (BitVec 64)} (h : 3 ≤ ds.length) (d : BitVec 64) (sp : Vector Byte 9) :
    readSp (ds ++ [d]) sp = (readSp ds sp).setIfInBounds (ds.length - 3) (tdataByte d) := by
  ext k hk
  rw [Vector.getElem_setIfInBounds, readSp_getElem _ _ hk, readSp_getElem _ _ hk]
  by_cases he : ds.length - 3 = k
  · rw [if_pos he, show k + 3 = ds.length by omega, List.getElem?_concat_length]
    rfl
  · have hget : (ds ++ [d])[k + 3]? = ds[k + 3]? := by grind
    rw [if_neg he, hget]

theorem readSeq_of_three_le {n : Nat} (h : 3 ≤ n) : readSeq n = .sRdBytes :=
  match n, h with
  | _ + 3, _ => rfl

theorem readRequests_reads {a : Addr} {n : Nat} (h3 : 3 ≤ n) (h : n < 12) :
    (readRequests a)[n]? = some .read := by
  interval_cases n <;> rfl

/-- After `ds` the engine asks for the request of that number (R137, R138). -/
theorem readAt_asks {ds : List (BitVec 64)} {r : Request}
    (hr : (readRequests s.arg)[ds.length]? = some r) :
    ∃ i, engineRequest (readAt ds s) = some i ∧ requestOf i = some r := by
  have hlt : ds.length < 12 := (List.getElem?_eq_some_iff.1 hr).1
  obtain h0 | h1 | h2 | h3 : ds.length = 0 ∨ ds.length = 1 ∨ ds.length = 2 ∨ 3 ≤ ds.length := by
    omega
  · rw [h0] at hr
    exact ⟨.tReset, by simp [engineRequest, readAt, readSeq, h0], hr⟩
  · rw [h1] at hr
    exact ⟨.tSelect s.arg, by simp [engineRequest, readAt, readSeq, h1], hr⟩
  · rw [h2] at hr
    exact ⟨.tWrite Config.cmdReadScratchpad, by simp [engineRequest, readAt, readSeq, h2], hr⟩
  · rw [readRequests_reads h3 hlt] at hr
    have hb : BitVec.ofNat 4 (ds.length - 3) < 9#4 := by bv_omega
    exact ⟨.tRead, by simp [engineRequest, readAt, readSeq_of_three_le h3, hb], hr⟩

/-- A `DONE` beat takes `READ` on by one answer (R137, R138). -/
theorem readAt_goesOn {ds : List (BitVec 64)} (h : ds.length < 12) (d : BitVec 64) (s : State) :
    completeRequest d [] (readAt ds s) = some (readAt (ds ++ [d]) s) := by
  obtain h3 | h3 : ds.length < 3 ∨ 3 ≤ ds.length := by omega
  · have hsp : readSp (ds ++ [d]) s.sp = readSp ds s.sp := by
      rw [readSp_of_length_le (by simp; omega), readSp_of_length_le h3.le]
    obtain h0 | h1 | h2 : ds.length = 0 ∨ ds.length = 1 ∨ ds.length = 2 := by omega
    · simp [completeRequest, readAt, readSeq, hsp, h0]
    · simp [completeRequest, readAt, readSeq, hsp, h1]
    · simp [completeRequest, readAt, readSeq, hsp, h2]
  · have hq : readSeq (ds ++ [d]).length = .sRdBytes := readSeq_of_three_le (by simp; omega)
    have hn : (BitVec.ofNat 4 (ds.length - 3)).toNat = ds.length - 3 := by
      rw [BitVec.toNat_ofNat]; omega
    have hb : BitVec.ofNat 4 ((ds ++ [d]).length - 3) = BitVec.ofNat 4 (ds.length - 3) + 1#4 := by
      rw [← BitVec.ofNat_add, List.length_append, List.length_singleton, Nat.sub_add_comm h3]
    simp only [completeRequest, readAt, storeSp, readSeq_of_three_le h3, hq, hb, hn,
      readSp_append h3]

theorem read_requestSequence (h : Running s) :
    RequestSequence (readRequests s.arg) fun ds => readAt ds s where
  running _ := h
  asks _ _ hr := readAt_asks hr
  goesOn _ d later trace hn := readAt_goesOn hn d (withAnswers later trace s)

/-! ## The CRC phase -/

/-- The CRC phase with `k` bytes fed (R139). -/
def crcFed (k : Nat) (s : State) : State :=
  { s with
    acc := crc8 ((crcCovered s.sp).take k), bitcnt := 0#4, bytecnt := BitVec.ofNat 4 k, seq := .sRdCrc }

/-- One byte: its load and its eight iterations (R110, R139). -/
theorem reaches_crcByte (h : Running s) (hq : s.seq = .sRdCrc) (hb : s.bitcnt = 0#4)
    (hn : s.bytecnt < 8#4) :
    Reaches s { s with
      acc := crcByte s.acc (spByte s), bitcnt := 0#4, bytecnt := s.bytecnt + 1#4 } := by
  have h1 := step_rdCrc_byte h hq hb
  rw [if_pos hn] at h1
  exact .head h1 (reaches_bits 8 (Nat.le_refl 8) h (.inr hq) rfl)

/-- The CRC of the bytes fed, with the next one (R110, R139). -/
theorem crcFed_succ {k : Nat} (hk : k < 8) (s : State) :
    crcFed (k + 1) s = { crcFed k s with
      acc := crcByte (crcFed k s).acc (spByte (crcFed k s)), bitcnt := 0#4
      bytecnt := (crcFed k s).bytecnt + 1#4 } := by
  have hn : (crcFed k s).bytecnt.toNat = k := by rw [crcFed, BitVec.toNat_ofNat]; omega
  have hfed := crcCovered_take_succ (crcFed k s) (by bv_omega)
  rw [show ((crcFed k s).bytecnt + 1#4).toNat = k + 1 by bv_omega, hn] at hfed
  have hacc : crc8 ((crcCovered s.sp).take (k + 1)) =
      crcByte (crcFed k s).acc (spByte (crcFed k s)) :=
    (congrArg crc8 hfed).trans (crc8_append _ _)
  conv_lhs => rw [crcFed, hacc, BitVec.ofNat_add]
  rfl

/-- The first `k` bytes of the CRC phase (R139). -/
theorem reaches_crcFed {k : Nat} (h : Running s) (hk : k ≤ 8) :
    Reaches (crcFed 0 s) (crcFed k s) := by
  induction k with
  | zero => exact .refl _
  | succ k ih =>
    have hlt : (crcFed k s).bytecnt < 8#4 := by
      rw [crcFed, BitVec.lt_def, BitVec.toNat_ofNat]
      exact (Nat.mod_le k _).trans_lt hk
    rw [crcFed_succ hk]
    exact (ih (Nat.le_of_succ_le hk)).trans (reaches_crcByte h rfl rfl hlt)

/-- With all eight bytes fed, `ACC` is their CRC. -/
theorem crcFed_eight (s : State) :
    crcFed 8 s = { s with
      acc := crc8 (crcCovered s.sp), bitcnt := 0#4, bytecnt := 8#4, seq := .sRdCrc } := by
  rw [crcFed, List.take_of_length_le (by simp [crcCovered])]

/-- From the ninth stored byte to the check (R138, R139). -/
theorem reaches_rdCheck (h : Running s) (hq : s.seq = .sRdBytes) (hn : s.bytecnt = 9#4) :
    Reaches s { s with
      acc := crc8 (crcCovered s.sp), bitcnt := 0#4, bytecnt := 8#4, seq := .sRdCheck } := by
  have h1 : step s = .next (crcFed 0 s) := step_startCrcPhase h hq (by simp [hn])
  have h2 := reaches_crcFed h (Nat.le_refl 8)
  rw [crcFed_eight] at h2
  exact .head h1 (h2.trans (.one (step_rdCrc_byte h rfl rfl)))

/-! ## `READ` as a whole -/

/-- `READ` is accepted with none of its requests done (R130). -/
theorem step_accepts_read {a : Addr} {rest : List CmdWord} (h : Ready s)
    (hc : s.cmds = cmdWord 0x04#8 a :: rest) :
    step s = .next (readAt [] { s with cmds := rest, op := 0x04#8, arg := a }) := by
  have h1 := step_accepts h hc (decodeOfEncode (.read a))
  simp only [acceptedState, cmdOp_cmdWord, cmdArg_cmdWord] at h1
  rw [readAt, readSp_of_length_le (ds := []) (by simp)]
  exact h1

/-- Twelve answers done bring the nine bytes (R138). -/
theorem readSp_twelve (d0 d1 d2 : BitVec 64) (ds : Vector (BitVec 64) 9) (sp : Vector Byte 9) :
    readSp (d0 :: d1 :: d2 :: ds.toList) sp = ds.map fun d => d.setWidth 8 := by
  ext k hk
  simp [readSp_getElem _ _ hk, hk, tdataByte_eq_setWidth]

/-- `READ` with its twelve answers (R138). -/
theorem readAt_twelve (d0 d1 d2 : BitVec 64) (ds : Vector (BitVec 64) 9) (s : State) :
    readAt (d0 :: d1 :: d2 :: ds.toList) s =
      { s with sp := ds.map fun d => d.setWidth 8, bytecnt := 9#4, seq := .sRdBytes } := by
  have hlen : (d0 :: d1 :: d2 :: ds.toList).length = 12 := by simp
  rw [readAt, readSp_twelve, hlen]
  rfl

/-- Settles O47: the requests are a fixed sequence; behind the last of them come the CRC phase and the check,
and a failure before it ends the operation. -/
theorem readComputes : Obligations.ReadComputes := by
  intro s a rest h hc
  have h1 := step_accepts_read h hc
  have hseq := read_requestSequence (s := { s with cmds := rest, op := 0x04#8, arg := a }) h.1
  refine ⟨fun d0 d1 d2 ds later sp ha hsp => ?_, fun ds f later hn ha => ?_⟩
  · subst hsp
    have hlen : (d0 :: d1 :: d2 :: ds.toList).length = 12 := by simp
    obtain ⟨trace, ht, hr⟩ := hseq.reaches_done (d0 :: d1 :: d2 :: ds.toList) hlen.le
      (trace := s.trace) ha
    rw [hlen] at ht
    rw [readAt_twelve] at hr
    have hcheck := Reaches.head h1 (hr.trans (reaches_rdCheck h.1 rfl rfl))
    refine ⟨trace, Config.freeData s.draws, ht, fun hv => ?_, fun hv => ?_⟩
    · exact hcheck.trans (.one (step_check_valid h.1 rfl hv))
    · exact hcheck.trans (.one (step_check_invalid h.1 rfl hv))
  · obtain ⟨trace, ht, hr⟩ := hseq.reaches_failed ds hn (trace := s.trace) ha
    rw [tdataByte_eq_setWidth] at hr
    refine ⟨trace, readSp ds s.sp, ht, fun k hk => ?_, .head h1 hr⟩
    rw [readSp_getElem ds s.sp hk]
    split
    next hlt => rw [List.getElem?_eq_getElem hlt, ← tdataByte_eq_setWidth]; rfl
    next hge => rw [List.getElem?_eq_none (Nat.not_lt.1 hge)]; rfl

/-! ## What a `READ` reports -/

/-- A response word as the host reads it, by its status (R85, R86). -/
theorem responseOf_ok (i : Byte) (d : BitVec 16) : responseOf (rspWord .ok i d) = some (.ok d) := by
  rw [responseOf, decodeRsp_rspWord]

theorem responseOf_invalid (i : Byte) (d : BitVec 16) :
    responseOf (rspWord .invalid i d) = some .invalid := by
  rw [responseOf, decodeRsp_rspWord]

theorem responseOf_transportFail (i : Byte) (d : BitVec 16) :
    responseOf (rspWord .transportFail i d) = some (.transportFail i) := by
  rw [responseOf, decodeRsp_rspWord]

/-- Twelve answers are the three of the command phase and the nine that bring bytes (R136). -/
theorem exists_nine_bytes {ds : List (BitVec 64)} (h : ds.length = 12) :
    ∃ (d0 d1 d2 : BitVec 64) (v : Vector (BitVec 64) 9), ds = d0 :: d1 :: d2 :: v.toList := by
  match ds, h with
  | d0 :: d1 :: d2 :: l, h => exact ⟨d0, d1, d2, ⟨⟨l⟩, by simpa using h⟩, rfl⟩

/-- What a `READ` reports, named by its answers alone (R142). -/
theorem exists_response_of_readAnswers {answers : List (List TansWord)} (h : readAnswers answers) :
    ∃ o : Response, ∀ (s : State) (a : Addr) (rest : List CmdWord) (later : List (List TansWord)),
      Ready s → s.cmds = cmdWord 0x04#8 a :: rest → s.answers = answers ++ later →
      ∃ t, Reaches s t ∧ t.seq = .sRespond ∧ t.delivered = s.delivered ∧
        responseOf t.rsp = some o := by
  rcases h with ⟨ds, hn, rfl⟩ | ⟨ds, f, hn, rfl⟩
  · obtain ⟨d0, d1, d2, v, rfl⟩ := exists_nine_bytes hn
    by_cases hv : scratchpadValid (v.map fun d => d.setWidth 8)
    · refine ⟨.ok (tRaw (v.map fun d => d.setWidth 8)), fun s a rest later hs hc ha => ?_⟩
      obtain ⟨trace, data, -, hok, -⟩ := (readComputes s a rest hs hc).1 d0 d1 d2 v later _ ha rfl
      exact ⟨_, hok hv, rfl, rfl, responseOf_ok _ _⟩
    · refine ⟨.invalid, fun s a rest later hs hc ha => ?_⟩
      obtain ⟨trace, data, -, -, hbad⟩ := (readComputes s a rest hs hc).1 d0 d1 d2 v later _ ha rfl
      exact ⟨_, hbad hv, rfl, rfl, responseOf_invalid _ _⟩
  · refine ⟨.transportFail (f.setWidth 8), fun s a rest later hs hc ha => ?_⟩
    obtain ⟨trace, sp, -, -, hr⟩ := (readComputes s a rest hs hc).2 ds f later hn (by simpa using ha)
    exact ⟨_, hr, rfl, rfl, responseOf_transportFail _ _⟩

/-- Settles O48: both reports are the one that the answers name. -/
theorem readsIndependent : Obligations.ReadsIndependent := by
  intro s1 s2 a1 a2 rest1 rest2 answers later1 later2 h1 h2 hc1 hc2 hans ha1 ha2
  obtain ⟨o, ho⟩ := exists_response_of_readAnswers hans
  obtain ⟨t1, hr1, hq1, hd1, ho1⟩ := ho s1 a1 rest1 later1 h1 hc1 ha1
  obtain ⟨t2, hr2, hq2, hd2, ho2⟩ := ho s2 a2 rest2 later2 h2 hc2 ha2
  exact ⟨t1, t2, hr1, hr2, hq1, hq2, hd1, hd2, ho1.trans ho2.symm, by simp [ho1]⟩

end Sys2Proof.Machine
end

section
/-! SUPPORT. The outcomes of R160: the answers that end an operation (R163 to R165), the cause of each
outcome, and that a transport which keeps its contract never stops the block (R168). -/

namespace Sys2Proof.Machine

variable {s s' : State}

/-! ## The states that issue a request -/

/-- The eight states of `SEQ` that issue a request (R163). -/
theorem requestState_iff_mem (q : Seq) :
    requestState q = true ↔ q ∈ [Seq.sScan, .sConvReset, .sConvSelect, .sConvWrite, .sRdReset,
      .sRdSelect, .sRdWrite, .sRdBytes] := by
  cases q <;> decide

/-- In a good state a request is outstanding only where `SEQ` issues one (R52). -/
theorem Inv.requestState_of_waiting (h : Inv s) {r : Request} {items : List Addr}
    (hp : s.port = .waiting r items) : requestState s.seq = true := by
  have hm := h.port_matches
  cases hq : s.seq <;> simp only [portMatches, hp, hq] at hm
  all_goals rfl

/-- In a good state the request outstanding in `S_SCAN` is `T_SCAN` (R131). -/
theorem Inv.scan_of_waiting (h : Inv s) {r : Request} {items : List Addr}
    (hp : s.port = .waiting r items) (hq : s.seq = .sScan) : r = .scan := by
  have hm := h.port_matches
  simpa only [portMatches, hp, hq] using hm

/-! ## The answers that end an operation -/

/-- A `FAIL` beat aborts the operation in every state that issues a request (R163, R167). -/
theorem exec_tansFail {r : Request} {items : List Addr} {t : BitVec 64}
    (hp : s.port = .waiting r items) (hq : requestState s.seq = true) :
    exec (.tansFail t) s =
      .next (abortWith .transportFail (tdataByte t) (recordBeat (failBeat t) s)) := by
  simp [exec, execTansFail, hp, hq]

/-- Settles O19: the abort rule, written out as the fields it changes. -/
theorem failAbortsOperation : Obligations.FailAbortsOperation := by
  intro s r items t hp hq
  rw [exec_tansFail hp ((requestState_iff_mem s.seq).2 hq), tdataByte_eq_setWidth]
  rfl

/-- A `DONE` beat in `S_SCAN` ends the scan with the items that have arrived (R131). -/
theorem exec_scan_done {r : Request} {items : List Addr} {t : BitVec 64}
    (hp : s.port = .waiting r items) (hq : s.seq = .sScan) :
    exec (.tansDone t) s =
      .next (completeScan items (closeRequest (recordBeat (doneBeat t) s))) :=
  exec_tansDone hp (by simp [completeRequest, hq])

/-- A list does not fit exactly when it is longer than some `MAX_DEV` (R165). -/
theorem not_fits_iff {c : Config} {n : Nat} :
    ¬ fits c n = true ↔ ∃ m, c.maxDev = some m ∧ m < n := by
  simp [fits_iff]

/-- Settles O18: the end of a scan asks whether the items fit. -/
theorem scanReplacesList : Obligations.ScanReplacesList := by
  refine fun s items t hp hq => ⟨fun hm => ?_, fun m hm hlt => ?_⟩
  · exact (exec_scan_done hp hq).trans (congrArg _ (completeScan_fits (fits_iff.2 hm)))
  · exact (exec_scan_done hp hq).trans
      (congrArg _ (completeScan_overflow rfl (not_fits_iff.2 ⟨m, hm, hlt⟩)))

/-- Settles O13: the op values R93 lists are those the decoder does not assign. -/
theorem reservedOpAnswered : Obligations.ReservedOpAnswered :=
  fun _ w _ h hc hw => step_reserved_op h hc ((opAssigned_eq_false_iff (cmdOp w)).2 hw)

/-! ## While the transport keeps its contract -/

/-- A request that is done where `SEQ` issues one takes the operation on. -/
theorem exists_completeRequest (hq : requestState s.seq = true) (d : BitVec 64)
    (items : List Addr) : ∃ t, completeRequest d items s = some t := by
  cases hs : s.seq <;> simp_all [requestState, completeRequest]

/-- What R88 allows as the next beat of an answer: nothing of the reserved kind, and an item only for
`T_SCAN`. -/
theorem answerAllowed_kind {r : Request} {w : TansWord} {rest : List TansWord}
    (h : answerAllowed r (w :: rest)) : tansKind w ≠ 3#2 ∧ (tansKind w = 2#2 → r = .scan) := by
  rw [answerAllowed] at h
  split at h
  next hk => exact ⟨by simp [hk], fun _ => h.1⟩
  next hk => exact ⟨h.1, fun hk' => absurd hk' hk⟩

/-- A beat that R88 allows in the answer to the outstanding request is taken. -/
theorem exists_step_of_beat {r : Request} {items : List Addr} {w : TansWord}
    {rest : List TansWord} (hr : s.rst = false) (hl : noLateBeat s)
    (hp : s.port = .waiting r items) (hq : requestState s.seq = true) (ht : s.tans = w :: rest)
    (ha : answerAllowed r (w :: rest)) : ∃ t, step s = .next t := by
  obtain ⟨hk, hscan⟩ := answerAllowed_kind ha
  obtain ⟨i, hd⟩ := decodeTans_of_kind_ne hk
  rw [step_beat hr hl ht hd]
  rcases decodeTans_cases hd with ⟨-, rfl⟩ | ⟨-, rfl⟩ | ⟨hk2, rfl⟩
  · obtain ⟨t, hc⟩ := exists_completeRequest
      (s := closeRequest (recordBeat (doneBeat (tansData w)) { s with tans := rest })) hq
      (tansData w) items
    exact ⟨t, exec_tansDone hp hc⟩
  · exact ⟨_, exec_tansFail hp hq⟩
  · obtain rfl := hscan hk2
    exact ⟨_, scanItemsKeptInOrder { s with tans := rest } items (tansData w) hp⟩

/-- With no request outstanding and no beat on the port, the block or the host can always go on, or
nothing is enabled and the state stays (R130, R132, R172). -/
theorem Running.exists_step (h : Running s) : ∃ t, step s = .next t := by
  by_cases h1 : s.seq = .sIdle
  · cases hc : s.cmds with
    | nil => exact ⟨_, step_no_command ⟨h, h1⟩ hc⟩
    | cons w rest =>
      cases hd : decodeCmd w with
      | ok i =>
        exact ⟨_, (step_command ⟨h, h1⟩ hc hd).trans (exec_accept (s := { s with cmds := rest }) hd h1)⟩
      | error e => exact ⟨_, step_illegal ⟨h, h1⟩ hc hd⟩
  by_cases h2 : s.seq = .sRespond
  · cases hy : s.rspReady with
    | true => exact ⟨_, step_response h h2 hy⟩
    | false => exact ⟨_, step_response_held h h2 hy⟩
  cases he : engineRequest s with
  | none => exact ⟨_, step_internal h h1 h2 he⟩
  | some i =>
    obtain ⟨r, hi, -⟩ := engineRequest_request he
    exact ⟨_, step_sends h he hi⟩

/-- Settles O52: a late beat that R88 allows is ignored, a beat on the port is taken by the request that is
outstanding, and without beats the block goes on by itself or waits. -/
theorem noStopUnderContract : Obligations.NoStopUnderContract := by
  intro s h ⟨hlate, hbeats⟩
  cases hr : s.rst with
  | true => exact ⟨_, step_of_rst hr⟩
  | false =>
    cases hn : nextLate s.abandoned with
    | ignore w rest => exact ⟨_, step_late hr hn⟩
    | refuse e => exact absurd hn (nextLate_allowed hlate e)
    | quiet =>
      have hl := nextLate_quiet_iff.1 hn
      cases hp : s.port with
      | free =>
        rw [hp] at hbeats
        exact Running.exists_step ⟨hr, hp, hbeats, hl⟩
      | waiting r items =>
        rw [hp] at hbeats
        cases ht : s.tans with
        | nil => exact ⟨_, step_no_beat hr hl hp ht⟩
        | cons w rest =>
          exact exists_step_of_beat hr hl hp (h.requestState_of_waiting hp) ht (ht ▸ hbeats)

/-! ## The cause of each outcome -/

/-- What a step from `s` to `t` that raises an outcome of this status is, and the word it leaves (R160 to
R165). -/
inductive Raises (s t : State) : Status → Prop
  /-- `CRCCLR` is accepted (R113). -/
  | crcclr (w : CmdWord) (rest : List CmdWord) (hq : s.seq = .sIdle) (hp : s.port = .free)
      (hc : s.cmds = w :: rest) (ho : cmdOp w = 0x08#8) (ha : t.acc = 0x00#8)
      (hw : t.rsp = rspWord .ok 0#8 0#16) : Raises s t .ok
  /-- `CRCBYTE` has no bit left (R114). -/
  | crcbyte (hq : s.seq = .sCrcRun) (hp : s.port = .free) (hb : s.bitcnt = 0#4)
      (hw : t.rsp = rspWord .ok 0#8 (s.acc.setWidth 16)) : Raises s t .ok
  /-- `WAIT` has no tick left (R135). -/
  | wait (hq : s.seq = .sWait) (hp : s.port = .free) (hn : s.waitcnt = 0)
      (hw : t.rsp = rspWord .ok 0#8 0#16) : Raises s t .ok
  /-- `CONVERT` is at the end of the list (R133). -/
  | convert (hq : s.seq = .sConvReset) (hp : s.port = .free) (hd : s.devidx = s.devcnt)
      (hw : t.rsp = rspWord .ok 0#8 0#16) : Raises s t .ok
  /-- A scan is done and its items fit (R131). -/
  | scan (items : List Addr) (d : BitVec 64) (hq : s.seq = .sScan)
      (hp : s.port = .waiting .scan items) (hb : s.tans.head? = some (doneBeat d))
      (hf : fits s.cfg items.length = true) (hl : t.devlist = items)
      (hw : t.rsp = rspWord .ok 0#8 (BitVec.ofNat 16 items.length)) : Raises s t .ok
  /-- A scratchpad is valid (R140). -/
  | valid (hq : s.seq = .sRdCheck) (hp : s.port = .free) (he : s.acc = s.sp[8])
      (hw : t.rsp = rspWord .ok 0#8 (s.sp[1] ++ s.sp[0])) : Raises s t .ok
  /-- A scratchpad is not valid (R140, R162). -/
  | invalid (data : BitVec 16) (hq : s.seq = .sRdCheck) (hp : s.port = .free) (he : s.acc ≠ s.sp[8])
      (hw : t.rsp = rspWord .invalid 0#8 data) : Raises s t .invalid
  /-- A request fails (R163). -/
  | fail (r : Request) (items : List Addr) (d : BitVec 64) (hq : requestState s.seq = true)
      (hp : s.port = .waiting r items) (hb : s.tans.head? = some (failBeat d))
      (hw : t.rsp = rspWord .transportFail (d.setWidth 8) 0#16) : Raises s t .transportFail
  /-- A command has a reserved op (R164). -/
  | reserved (w : CmdWord) (rest : List CmdWord) (hq : s.seq = .sIdle) (hc : s.cmds = w :: rest)
      (ho : opAssigned (cmdOp w) = false) (hw : t.rsp = rspWord .illegalOp 0#8 0#16) :
      Raises s t .illegalOp
  /-- A scan is done and its items do not fit (R165). -/
  | overflow (items : List Addr) (hq : s.seq = .sScan) (hp : s.port = .waiting .scan items)
      (hf : ¬ fits s.cfg items.length = true) (hw : t.rsp = rspWord .listOverflow 0#8 0#16) :
      Raises s t .listOverflow

/-- Of the accepting steps only that of `CRCCLR` answers at once (R113, R130). -/
theorem acceptedState_responds {w : CmdWord} {i : Instr} (hd : decodeCmd w = .ok i)
    (ht : (acceptedState w s i).seq = .sRespond) :
    cmdOp w = 0x08#8 ∧ (acceptedState w s i).acc = 0x00#8 ∧
      (acceptedState w s i).rsp = rspWord .ok 0#8 0#16 := by
  rcases decodeCmd_cases hd with
    ⟨-, rfl⟩ | ⟨-, rfl⟩ | ⟨-, rfl⟩ | ⟨-, rfl⟩ | ⟨ho, rfl⟩ | ⟨-, rfl⟩
  · cases ht
  · cases ht
  · cases ht
  · cases ht
  · exact ⟨ho, rfl, rfl⟩
  · cases ht

/-- Of the requests that are done only a scan's ends its operation (R131). -/
theorem completeRequest_responds {d : BitVec 64} {items : List Addr}
    (hc : completeRequest d items s = some s') (ht : s'.seq = .sRespond) :
    s.seq = .sScan ∧ s' = completeScan items s := by
  rcases completeRequest_cases hc with ⟨hq, rfl⟩ | ⟨hq, rfl⟩ | ⟨hq, rfl⟩ | ⟨hq, rfl⟩ |
    ⟨hq, rfl⟩ | ⟨hq, rfl⟩ | ⟨hq, rfl⟩ | ⟨hq, rfl⟩
  · exact ⟨hq, rfl⟩
  all_goals simp [hq] at ht

/-- The engine's own steps that end an operation (R114, R133, R135, R140). -/
theorem internalStep_raises (hp : s.port = .free) (he : engineRequest s = none)
    (hq : s.seq ≠ .sRespond) (ht : (internalStep s).seq = .sRespond) :
    ∃ st, Raises s (internalStep s) st := by
  cases hs : s.seq <;> simp only [internalStep, hs] at ht ⊢
  case sConvReset =>
    have hd : s.devidx = s.devcnt := by simpa [engineRequest, hs] using he
    exact ⟨_, .convert hs hp hd rfl⟩
  case sWait =>
    unfold waitStep at ht ⊢
    split at ht
    next => simp [hs] at ht
    next hn => rw [if_neg hn]; exact ⟨_, .wait hs hp (by omega) rfl⟩
  case sRdBytes => cases ht
  case sRdCrc =>
    unfold rdCrcStep at ht
    repeat' split at ht
    all_goals simp [hs] at ht
  case sRdCheck =>
    unfold rdCheckStep
    split
    next heq => exact ⟨_, .valid hs hp heq rfl⟩
    next hne => exact ⟨_, .invalid _ hs hp hne rfl⟩
  case sCrcRun =>
    unfold crcRunStep at ht ⊢
    split at ht
    next hb =>
      rw [if_pos hb]
      exact ⟨_, .crcbyte hs hp hb (by simp [BitVec.setWidth_eq_append])⟩
    next => simp [hs] at ht
  case sRespond => exact absurd hs hq
  all_goals cases ht

/-- A step that raises an outcome is one of those the rules name (R160 to R165). -/
theorem StepCase.raises (h : Inv s) (hs : StepCase s s') (hq : s.seq ≠ .sRespond)
    (ht : s'.seq = .sRespond) : ∃ st, Raises s s' st := by
  cases hs with
  | reset => cases ht
  | waits | ignores | issues | item => exact absurd ht hq
  | delivers => cases ht
  | accepts hr w rest i hc hd =>
    obtain ⟨ho, ha, hw⟩ := acceptedState_responds hd ht
    exact ⟨_, .crcclr w rest hr.2 hr.1.2.1 hc ho ha hw⟩
  | rejects hr w rest e hc hd => exact ⟨_, .reserved w rest hr.2 hc (decodeCmd_error hd) rfl⟩
  | moves hr _ _ he => exact internalStep_raises hr.2.1 he hq ht
  | done _ r items hp d rest hb t hc =>
    obtain ⟨hscan, rfl⟩ := completeRequest_responds hc ht
    obtain rfl := h.scan_of_waiting hp hscan
    rcases completeScan_cases items
        (closeRequest (recordBeat (doneBeat d) { s with tans := rest })) with ⟨hf, he⟩ | ⟨hf, he⟩
    all_goals rw [he]
    · exact ⟨_, .scan items d hscan hp (by simp [hb]) hf rfl rfl⟩
    · exact ⟨_, .overflow items hscan hp (Bool.eq_false_iff.1 hf) rfl⟩
  | fails _ r items hp d rest hb hreq =>
    exact ⟨_, .fail r items d hreq hp (by simp [hb]) (by simp [tdataByte_eq_setWidth])⟩

/-- The word that is left has the status of the outcome (R84, R85). -/
theorem Raises.rspStatus_eq {st : Status} (h : Raises s s' st) : rspStatus s'.rsp = st.code := by
  cases h <;> simp [*]

theorem statusCode_injective : Function.Injective Status.code := by
  intro a b
  cases a <;> cases b <;> decide

theorem statusCode_le (st : Status) : st.code ≤ 4#4 := by
  cases st <;> decide

/-- Where `SEQ` is in the check of `READ`, an outcome is raised by the check (R140). -/
theorem Raises.of_check {st : Status} (h : Raises s s' st) (hq : s.seq = .sRdCheck)
    (he : s.acc = s.sp[8]) : s'.rsp = rspWord .ok 0#8 (s.sp[1] ++ s.sp[0]) := by
  cases h with
  | valid _ _ _ hw => exact hw
  | invalid _ _ _ hne => exact absurd he hne
  | fail _ _ _ hreq => simp [hq, requestState] at hreq
  | crcclr | crcbyte | wait | convert | scan | reserved | overflow => simp_all

/-- Settles O55: the status of the word that is left tells which of the steps raised it. -/
theorem outcomesHaveTheirCauses : Obligations.OutcomesHaveTheirCauses := by
  intro s t h hstep hq ht
  obtain ⟨st, hr⟩ := (step_cases hstep).raises h hq ht
  have hst : ∀ st' : Status, rspStatus t.rsp = st'.code → Raises s t st' := fun st' he =>
    statusCode_injective (hr.rspStatus_eq.symm.trans he) ▸ hr
  refine ⟨hr.rspStatus_eq ▸ statusCode_le st, fun h0 => ?_, fun h1 => ?_, fun h2 => ?_, fun h3 => ?_,
    fun h4 => ?_, fun hc he => ?_⟩
  · cases hst .ok h0 with
    | crcclr w rest hs hp hc ho ha hw => exact .inl ⟨w, rest, hs, hp, hc, ho, ha, hw⟩
    | crcbyte hs hp hb hw => exact .inr (.inl ⟨hs, hp, hb, hw⟩)
    | wait hs hp hn hw => exact .inr (.inr (.inl ⟨hs, hp, hn, hw⟩))
    | convert hs hp hd hw => exact .inr (.inr (.inr (.inl ⟨hs, hp, hd, hw⟩)))
    | scan items d hs hp hb hf hl hw =>
      exact .inr (.inr (.inr (.inr (.inl ⟨hs, items, d, hp, hb, fits_iff.1 hf, hl, hw⟩))))
    | valid hs hp he hw => exact .inr (.inr (.inr (.inr (.inr ⟨hs, hp, he, hw⟩))))
  · cases hst .invalid h1 with
    | invalid _ hs hp he => exact ⟨hs, hp, he⟩
  · cases hst .transportFail h2 with
    | fail r items d _ hp hb hw => exact ⟨r, items, d, hp, hb, by simp [hw], by simp [hw]⟩
  · cases hst .illegalOp h3 with
    | reserved w rest hs hc ho => exact ⟨w, rest, hs, hc, ho⟩
  · cases hst .listOverflow h4 with
    | overflow items _ hp hf =>
      obtain ⟨m, hm, hlt⟩ := not_fits_iff.1 hf
      exact ⟨items, m, hp, hm, hlt⟩
  · simp [hr.of_check hc he, Status.code]

end Sys2Proof.Machine
end

section
/-! SUPPORT. The reset step, and the answers to the requests it abandons (70_reset_and_hazards.md R190, R192;
log 13). -/

namespace Sys2Proof.Machine

variable {s : State}

/-! ## The reset step -/

theorem resetBlock_tans_free (h : s.port = .free) : (resetBlock s).tans = s.tans := by
  rw [resetBlock, abandonRequest_free h]

theorem resetBlock_abandoned_free (h : s.port = .free) : (resetBlock s).abandoned = s.abandoned := by
  rw [resetBlock, abandonRequest_free h]

theorem resetBlock_tans_waiting {r : Request} {items : List Addr} (h : s.port = .waiting r items) :
    (resetBlock s).tans = [] := by
  rw [resetBlock, abandonRequest_waiting h]

theorem resetBlock_abandoned_waiting {r : Request} {items : List Addr}
    (h : s.port = .waiting r items) :
    (resetBlock s).abandoned = s.abandoned ++ [⟨r, s.tans⟩] := by
  rw [resetBlock, abandonRequest_waiting h]

/-- Settles O30: the step is `resetBlock`, which takes the reset values; what it abandons depends on the port
alone. -/
theorem resetEndsOperation : Obligations.ResetEndsOperation := by
  intro s hr
  refine ⟨resetBlock s, step_of_rst hr, rfl, rfl, rfl, rfl, rfl, rfl, rfl, rfl, rfl, rfl, rfl, rfl,
    rfl, rfl, rfl, rfl, rfl, ?_, ?_⟩
  · intro hp
    exact ⟨resetBlock_tans_free hp, resetBlock_abandoned_free hp⟩
  · intro r items hp
    exact ⟨resetBlock_tans_waiting hp, resetBlock_abandoned_waiting hp⟩

/-! ## One late beat -/

/-- Settles O58: the silent requests do not hide the beat, and R88 allows it, so the step ignores it. -/
theorem lateBeatIgnored : Obligations.LateBeatIgnored := by
  intro s before rest r w ws hr hb ha h
  have hn := nextLate_append hb (nextLate_cons (rest := rest) h)
  exact step_late hr (ha ▸ hn)

/-! ## All late beats of one answer -/

/-- What stays of an abandoned request once these beats of its answer are gone: the request, silent, while
only items have come, and nothing after the `DONE` or `FAIL` (R88). -/
def leftOfAnswer (r : Request) (beats : List TansWord) : List Abandoned :=
  if ∀ w ∈ beats, tansKind w = 2#2 then [⟨r, []⟩] else []

@[simp] theorem leftOfAnswer_nil (r : Request) : leftOfAnswer r [] = [⟨r, []⟩] := by
  simp [leftOfAnswer]

theorem leftOfAnswer_item {w : TansWord} (r : Request) (ws : List TansWord) (h : tansKind w = 2#2) :
    leftOfAnswer r (w :: ws) = leftOfAnswer r ws := by
  simp [leftOfAnswer, h]

theorem leftOfAnswer_final {w : TansWord} (r : Request) (ws : List TansWord) (h : tansKind w ≠ 2#2) :
    leftOfAnswer r (w :: ws) = [] := by
  simp [leftOfAnswer, h]

/-- The beats of an answer that R88 allows go by one after the other, and nothing changes but what is left of
it and the trace (R192). -/
theorem reaches_answer_ignored {r : Request} (beats : List TansWord) {before rest : List Abandoned}
    (hr : s.rst = false) (hb : ∀ a ∈ before, a.beats = [])
    (ha : s.abandoned = before ++ ⟨r, beats⟩ :: rest) (h : answerAllowed r beats) :
    Reaches s { s with
      abandoned := before ++ leftOfAnswer r beats ++ rest
      trace := s.trace ++ beats.map .late } := by
  induction beats generalizing s with
  | nil =>
    have hl : before ++ leftOfAnswer r [] ++ rest = s.abandoned := by simp [ha]
    rw [hl, List.map_nil, List.append_nil]
    exact .refl s
  | cons w ws ih =>
    have hstep := lateBeatIgnored s before rest r w ws hr hb ha h
    rw [answerAllowed] at h
    split at h
    next hk =>
      rw [if_pos hk] at hstep
      have hws := ih (s := { s with
        abandoned := before ++ ⟨r, ws⟩ :: rest, trace := s.trace ++ [.late w] }) hr rfl h.2
      rw [leftOfAnswer_item r ws hk]
      simpa using Reaches.head hstep hws
    next hk =>
      obtain ⟨-, rfl⟩ := h
      rw [if_neg hk] at hstep
      rw [leftOfAnswer_final r [] hk]
      simpa using Reaches.one hstep

/-! ## An answer as items and a last part -/

@[simp] theorem tansKind_itemBeat (a : Addr) : tansKind (itemBeat a) = 2#2 := tansKind_tansWord ..

@[simp] theorem tansKind_doneBeat (d : BitVec 64) : tansKind (doneBeat d) = 0#2 := tansKind_tansWord ..

@[simp] theorem tansKind_failBeat (d : BitVec 64) : tansKind (failBeat d) = 1#2 := tansKind_tansWord ..

/-- Items in a scan's answer alone, then nothing yet, a `DONE` or a `FAIL`: R88 allows it. -/
theorem answerAllowed_items_append {r : Request} {items : List Addr} {last : List TansWord}
    (hi : items = [] ∨ r = .scan)
    (hl : last = [] ∨ ∃ d, last = [doneBeat d] ∨ last = [failBeat d]) :
    answerAllowed r (items.map itemBeat ++ last) := by
  induction items with
  | nil => obtain rfl | ⟨d, rfl | rfl⟩ := hl <;> simp [answerAllowed]
  | cons a items ih =>
    have hr : r = .scan := hi.resolve_left (List.cons_ne_nil a items)
    simpa [answerAllowed, hr] using ih (.inr hr)

/-- The request stays exactly where the last part has not come. -/
theorem leftOfAnswer_items_append {items : List Addr} {last : List TansWord} (r : Request)
    (hl : last = [] ∨ ∃ d, last = [doneBeat d] ∨ last = [failBeat d]) :
    leftOfAnswer r (items.map itemBeat ++ last) = if last = [] then [⟨r, []⟩] else [] := by
  induction items with
  | nil => obtain rfl | ⟨d, rfl | rfl⟩ := hl <;> simp [leftOfAnswer]
  | cons a items ih =>
    rw [List.map_cons, List.cons_append, leftOfAnswer_item r _ (tansKind_itemBeat a), ih]

/-- Settles O57: the beats go by as R88 allows them, from the state out of reset and from the one that the
reset step leaves, where they have been moved off the port to the abandoned request. -/
theorem abandonedAnswerIgnored : Obligations.AbandonedAnswerIgnored := by
  intro r items last beats left hi hl hbeats hleft
  have hallowed : answerAllowed r beats := hbeats ▸ answerAllowed_items_append hi hl
  have hl' : leftOfAnswer r beats = left := by rw [hbeats, hleft, leftOfAnswer_items_append r hl]
  subst hl'
  refine ⟨fun s before rest hr hb ha => reaches_answer_ignored beats hr hb ha hallowed, ?_⟩
  intro s kept hr hp
  refine ⟨resetBlock s, step_of_rst hr, rfl, resetBlock_tans_waiting hp, rfl, rfl,
    resetBlock_abandoned_waiting hp, ?_⟩
  rintro more hb rfl
  have hrun := reaches_answer_ignored (s.tans ++ more) (rest := [])
    (s := { resetBlock s with rst := false, abandoned := s.abandoned ++ [⟨r, s.tans ++ more⟩] })
    rfl hb rfl hallowed
  rwa [List.append_nil] at hrun

end Sys2Proof.Machine
end

section
/-! SUPPORT. The model's own choices about channels: where `withFetchWord` places a command word (log 10), and
what a block with a request outstanding does (20_memory.md R52; log 3, log 12). -/

namespace Sys2Proof.Machine

variable {s : State}

/-- Words of 72 bits are command words: the host presents the word to an idle block with a quiet port. -/
theorem withFetchWord_cmdWord (s : State) (w : CmdWord) :
    s.withFetchWord 72 w.toNat =
      { s with
        rst := false, port := .free, tans := [], abandoned := [], seq := .sIdle,
        cmds := w :: s.cmds } := by
  have hf : formatOfBits 72 = some .cmd := rfl
  rw [State.withFetchWord, hf]
  simp only [placeWord, BitVec.ofNat_toNat, BitVec.setWidth_eq]

theorem ready_withFetchWord_cmdWord (s : State) (w : CmdWord) : Ready (s.withFetchWord 72 w.toNat) := by
  rw [withFetchWord_cmdWord]
  exact ⟨⟨rfl, rfl, rfl, List.forall_mem_nil _⟩, rfl⟩

/-- Settles O11: the block is ready and the placed word is the first that the host presents. -/
theorem placedCommandRuns : Obligations.PlacedCommandRuns := by
  intro s w i hd
  have hc : (s.withFetchWord 72 w.toNat).cmds = w :: s.cmds := by rw [withFetchWord_cmdWord]
  rw [step_command (ready_withFetchWord_cmdWord s w) hc hd, withFetchWord_cmdWord]

/-- The row of a request is not enabled while another request is outstanding (R52; log 12). -/
theorem exec_requestOf_waiting {i : Instr} {q r : Request} {items : List Addr}
    (hp : s.port = .waiting r items) (hi : requestOf i = some q) : exec i s = .next s :=
  (exec_requestOf hi).trans (issue_waiting q r items hp)

/-- Settles O15: no row issues a second request, and without a beat the step is a wait. -/
theorem oneRequestOutstanding : Obligations.OneRequestOutstanding :=
  fun _ _ _ hp => ⟨fun _ _ hi => exec_requestOf_waiting hp hi,
    fun hr hl ht => step_no_beat hr hl hp ht⟩

end Sys2Proof.Machine
end
